-- ==== Sys2Proof/Word.lean ====
section
/-! DEFINITION. The plain word types of the part, and replacing one entry of a fixed-length vector. -/

namespace Sys2Proof

/-- One character on a port line or in a text cell. -/
abbrev Byte := BitVec 8

/-- A counter of the part: "a 16-bit unsigned quantity, 0 to 65535" (00_scope.md, Counters). -/
abbrev Counter := BitVec 16

/-- A slot of the departure table, 0 to 95 (R21). -/
abbrev Slot := Fin 96

/-- One of the four chains W0 to W3. -/
abbrev Chain := Fin 4

/-- One of the four clock lines L0 to L3. -/
abbrev Line := Fin 4

/-- The vector with entry `i` replaced. -/
def put {α : Type} {n : Nat} (v : Vector α n) (i : Fin n) (x : α) : Vector α n :=
  v.set i x

/-- The vector with every entry mapped (evaluable by the kernel, entry by entry). -/
def mapAll {α β : Type} {n : Nat} (f : α → β) (v : Vector α n) : Vector β n :=
  Vector.ofFn fun i => f v[i]

end Sys2Proof
end

