-- ==== Sys2Proof/Syntax.lean ====
section
/-! DEFINITION. The commands of the part: one constructor for each row of spec/opcode_table.json, and their operand
types. A row that a port command serves names the port whose command in service is taken (log 15). -/

namespace Sys2Proof

/-- The three ports: P0, P1 and the Cue Port. -/
inductive Port where
  | p0 | p1 | cp
deriving DecidableEq, Repr

/-- The two control ports. -/
inductive Ctrl where
  | p0 | p1
deriving DecidableEq, Repr

/-- What causes a hardware reset (R190): a power-on, or an assertion of the RESET input. -/
inductive ResetCause where
  | powerOn | resetInput
deriving DecidableEq, Repr

/-- The strap readings (11.5): `true` is a closed strap (PROT closed is asserted, PRI closed names P1). -/
structure Straps where
  unit : BitVec 4
  rateFirst : Bool
  rateSecond : Bool
  pri : Bool
  prot : Bool
deriving DecidableEq, Repr

/-- The six steps of the start-up sequence, in its order (R190). -/
inductive StartStage where
  | straps | configuration | rows | lines | ports | cycles
deriving DecidableEq, Repr

/-- What a RESET_END brings: the strap readings, and the step through which the start-up sequence runs in it (R190,
log 23). -/
structure StartRun where
  straps : Straps
  upTo : StartStage
deriving DecidableEq, Repr

/-- The statuses of a module's answer (R123). -/
inductive AnswerStatus where
  | ok | cellsDegraded
deriving DecidableEq, Repr

/-- What the line monitor reports (R162). -/
inductive FaultKind where
  | openLine | short
deriving DecidableEq, Repr

/-- The rows of spec/opcode_table.json, in the table's order. -/
inductive Instr where
  | hardwareReset (cause : ResetCause)
  | resetEnd (run : StartRun)
  | secondCompletion
  | minutePulse
  | pulseIntervalExpiry
  | setTime (port : Ctrl)
  | readTime (port : Port)
  | tableMinuteEvent
  | tableRebase
  | insertDeparture (port : Ctrl)
  | amendExpected (port : Ctrl)
  | assignPlatform (port : Ctrl)
  | setRemark (port : Ctrl)
  | setSector (port : Ctrl)
  | setAnnounceMask (port : Ctrl)
  | cancelDeparture (port : Ctrl)
  | reinstate (port : Ctrl)
  | markDeparted (port : Ctrl)
  | removeDeparture (port : Ctrl)
  | clearBoard (port : Ctrl)
  | readRecord (port : Ctrl)
  | readList (port : Ctrl)
  | requestAuthority (port : Ctrl)
  | seizeAuthority (port : Ctrl)
  | releaseAuthority (port : Ctrl)
  | readAuthority (port : Ctrl)
  | yieldTimerExpiry
  | holderSilenceExpiry
  | setTextAddress (port : Ctrl)
  | loadText (port : Ctrl)
  | commitRow (port : Ctrl)
  | discardStaging (port : Ctrl)
  | readTextRow (port : Port)
  | rowCommitCompletion (success : Bool)
  | composerMinuteEvent
  | noticeRebase
  | cycleStart (chain : Chain)
  | pageTimerExpiry (chain : Chain)
  | compositionStart
  | compositionCompletion
  | partTimerExpiry (chain : Chain)
  | setNotice (port : Ctrl)
  | clearNotice (port : Ctrl)
  | readNotices (port : Ctrl)
  | leadEnd (chain : Chain)
  | chainFrameSent (chain : Chain)
  | moduleAnswer (chain : Chain) (row : Nat) (status : AnswerStatus) (checkGood : Bool)
  | answerWindowExpiry (chain : Chain)
  | refreshTimerExpiry (chain : Chain)
  | cueMinuteEvent
  | cueRebase
  | cueIssue
  | cueRefresh
  | cueWithdraw
  | recordEnded
  | slotFreed
  | boardCleared
  | announce (port : Ctrl)
  | readCueStatus (port : Ctrl)
  | fetchCue
  | cueDone
  | playTimerExpiry
  | clockMinuteEvent
  | impulseCompletion (line : Line)
  | spacingTimerExpiry (line : Line)
  | lineFaultReport (line : Line) (kind : FaultKind)
  | setDialShown (port : Ctrl)
  | lineOff (port : Ctrl)
  | lineOn (port : Ctrl)
  | clearLineFault (port : Ctrl)
  | readLines (port : Ctrl)
  | writeConfigItem (port : Ctrl)
  | readConfigItem (port : Ctrl)
  | commitConfig (port : Ctrl)
  | configCommitCompletion (success : Bool)
  | readCounters (port : Port)
  | clearCounters (port : Ctrl)
  | readIdent (port : Port)
  | readEvent (port : Port)
  | setEventEnable (port : Ctrl)
  | postWatch (port : Ctrl)
  | frameReceived (port : Port) (bytes : List Byte)
  | frameGapExpiry (port : Port)
  | stopBitError (port : Port)
  | breakReceived (port : Port)
  | replySent (port : Port)
  | tickArrival
  | mainSupplyLoss
  | backupSupplyLoss
  | rowStorageFault (row : Nat)
deriving DecidableEq, Repr

end Sys2Proof
end

