-- ==== Sys2Proof/Decode.lean ====
section
/-! DEFINITION. The commands that a word spells by the table's bits: spec/opcode_table.json gives no row any bits, so
there are none (log 38). Command frames, whose bytes 10.8 lays out, are read by the receiver in Machine/PortOps.lean. -/

namespace Sys2Proof

/-- No row of the table gives bits: every word is refused (log 38). -/
def decodeTableWord (_nbits _w : Nat) : Option Instr := none

end Sys2Proof
end

