-- ==== Sys2Proof/Config.lean ====
section
/-! DEFINITION. The types of the active configuration (chapter 11, 11.1) and the values the manual leaves to an
implementation, as free constants without a body. -/

namespace Sys2Proof

/-- A text reference: a start row and a length whose span ends at or before cell 15 of row 511
(00_scope.md Text references; R35). The span check is part of the value, so every reference held is readable. -/
structure TextRef where
  row : Nat
  len : Nat
  fits : 1 ≤ len ∧ len ≤ 64 ∧ row ≤ 511 ∧ row * 16 + len ≤ 8192
deriving DecidableEq, Repr

/-- What a row of a chain shows (6.1). -/
inductive Role where
  | list | notice | clock | blank
deriving DecidableEq, Repr

/-- What the time field of a LIST row shows (6.1). -/
inductive TimeMode where
  | clocktime | countdown
deriving DecidableEq, Repr

/-- A chain plan (6.1). The row count is the number of roles: R100 refuses any plan where the two differ. -/
structure ChainPlan where
  enabled : Bool
  width : Nat
  roles : List Role
  sectorMask : BitVec 4
  platformFilter : Nat
  pinned : Nat
  pagePeriod : Nat
  refreshPeriod : Nat
  timeMode : TimeMode
deriving DecidableEq, Repr

/-- The four configuration items of a clock line (9.1): enabled, impulse width (ms), fast interval (s), wait
window (minutes). -/
structure LineConfig where
  enabled : Bool
  width : Nat
  fast : Nat
  wait : Nat
deriving DecidableEq, Repr

/-- The three values of a routing item (R180). -/
inductive Route where
  | holder | both | none
deriving DecidableEq, Repr

/-- The event kinds that have a routing item: codes 6 to 14 and 18, in the order of tags 0x70 to 0x79 (11.1). -/
inductive RoutedKind where
  | timeStepped | timeRefLost | timeRefRegained | dayRollover | clockLineFault | chainFault
  | platformConflict | boardChanged | cueDropped | configDefaulted
deriving DecidableEq, Repr

/-- The ten routing items (R180). -/
structure Routing where
  timeStepped : Route
  timeRefLost : Route
  timeRefRegained : Route
  dayRollover : Route
  clockLineFault : Route
  chainFault : Route
  platformConflict : Route
  boardChanged : Route
  cueDropped : Route
  configDefaulted : Route
deriving DecidableEq, Repr

/-- The seven remarks of a LIST row (R110). -/
inductive Remark where
  | cancelled | departed | closing | platformChanged | expected | boarding | onTime
deriving DecidableEq, Repr

/-- The REMARK TEXT items (R120). -/
structure RemarkTexts where
  cancelled : TextRef
  departed : TextRef
  closing : TextRef
  platformChanged : TextRef
  expected : TextRef
  boarding : TextRef
  onTime : TextRef
deriving DecidableEq, Repr

/-- SCHEDULING (8.6). -/
inductive Scheduling where
  | strict | weighted
deriving DecidableEq, Repr

/-- The active configuration: the 47 items of 11.1. -/
structure Settings where
  dayStart : Nat
  stepLimit : Nat
  onTimeTolerance : Nat
  callLead : Nat
  closeLead : Nat
  departGrace : Nat
  goneHold : Nat
  cancelHold : Nat
  delayCueThreshold : Nat
  delayCueStep : Nat
  conflictWindow : Nat
  changeFlash : Nat
  yieldTime : Nat
  holdSilence : Nat
  seizeEnable : Bool
  plans : Vector ChainPlan 4
  remarks : RemarkTexts
  autoDelayNotices : Bool
  noticePeriod : Nat
  scheduling : Scheduling
  platformWeight : Nat
  delayWeight : Nat
  routineWeight : Nat
  playTimeout : Nat
  lines : Vector LineConfig 4
  routing : Routing
deriving DecidableEq, Repr

/-- The reply fields whose content 10.8 does not state, because another field of the same layout marks the value
as absent (log 19). -/
inductive OpenField where
  | holdMinute | lastDelay | absentReferenceRow | absentCueRemarkRow
  | emptyNoticePriority | emptyNoticeExpiry | absentItemPlace | absentItemPart
deriving DecidableEq, Repr

/-- A line image: one character code and one attribute (`true` is FLASH) for each cell (R111). -/
structure LineImage where
  cells : List Byte
  flash : List Bool
deriving DecidableEq, Repr

/-- The three kinds of frame to a chain, with what each carries beside its row number and its check value (R123): ROW its
width and image, REPEAT nothing, BLANK its width. -/
inductive FrameContent where
  | row (width : Nat) (image : LineImage)
  | repeated
  | blank (width : Nat)
deriving DecidableEq, Repr

/-- The check value of a frame to a chain, by its row number and its content (R123). DESIGN CHOICE (log 8), safe: the
spec gives no computation and no width of it, so it is free; nothing can be proved of it. -/
opaque Config.chainCheck : Nat → FrameContent → List Byte

/-- DESIGN CHOICE (log 19), safe: what such a field holds is free; nothing can be proved of it. -/
opaque Config.openField : OpenField → BitVec 16

/-- The silicon revision number of READ IDENT (R191), which each implementation fixes (log 20): free. -/
opaque Config.siliconRevision : Byte

end Sys2Proof
end

