-- ==== Sys2Proof/Machine/Bytes.lean ====
section
/-! DEFINITION. Byte order, packed service codes and the CRC of 10.8, and the printing of civil times. -/

namespace Sys2Proof.Machine

/-- One byte holding the low 8 bits of a number. -/
def byte (n : Nat) : Byte := BitVec.ofNat 8 n

/-- A 2-byte number, most significant byte first (10.8). -/
def be16 (n : Nat) : List Byte := [byte (n / 256), byte n]

/-- A 3-byte number, most significant byte first. -/
def be24 (n : Nat) : List Byte := [byte (n / 65536), byte (n / 256), byte n]

/-- A minute: signed, 16 bits, two's complement, most significant byte first (10.8). -/
def beInt (n : Int) : List Byte := be16 (n % 65536).toNat

/-- A counter of the part, 2 bytes. -/
def beCounter (c : Counter) : List Byte := be16 c.toNat

/-- "an absent record minute is sent as 0x8000" (10.8). -/
def absentMinute : List Byte := [0x80, 0x00]

def beOptMinute : Option Int → List Byte
  | none => absentMinute
  | some m => beInt m

/-- A yes or no in a byte. -/
def flag (b : Bool) : Byte := if b then 1 else 0

/-- The field of an absent value that another field marks: free (log 19). -/
def openBytes (f : OpenField) : List Byte := be16 (Config.openField f).toNat

def openByte (f : OpenField) : Byte := byte (Config.openField f).toNat

/-- A text reference: start row in 2 bytes, length in 1 (10.8). -/
def refBytes (r : TextRef) : List Byte := be16 r.row ++ [byte r.len]

/-- An optional text reference: "a length of 0 marks an absent reference" (10.8); its start row is then free. -/
def optRefBytes : Option TextRef → List Byte
  | some r => refBytes r
  | none => openBytes .absentReferenceRow ++ [0]

/-- A reference field that is "sent as 0" where the cue's kind does not hold it (10.8, Cue). -/
def cueRefBytes : Option TextRef → List Byte
  | some r => refBytes r
  | none => [0, 0, 0]

/-- The bytes padded with 0x20, or cut, to `n`. -/
def padTo (n : Nat) (bs : List Byte) : List Byte :=
  bs.take n ++ List.replicate (n - bs.length) 0x20

/-- The 6-bit value of a service code character: 1 to 26 for A to Z, 27 to 36 for 0 to 9 (10.8). -/
def packedChar (b : Byte) : Nat :=
  if 0x41 ≤ b.toNat ∧ b.toNat ≤ 0x5A then b.toNat - 0x40
  else if 0x30 ≤ b.toNat ∧ b.toNat ≤ 0x39 then b.toNat - 0x30 + 27
  else 0

/-- The eight 6-bit values of a code, "0 after the last character" (10.8). -/
def packedValues (code : List Byte) : List Nat :=
  (code.take 8).map packedChar ++ List.replicate (8 - code.length) 0

/-- A packed service code: 6 bytes, the first character in the highest 6 bits (10.8). -/
def packCode (code : List Byte) : List Byte :=
  let n := (packedValues code).foldl (fun acc v => acc * 64 + v) 0
  [byte (n / 1099511627776), byte (n / 4294967296), byte (n / 16777216), byte (n / 65536), byte (n / 256), byte n]

/-- One bit of the CRC: polynomial x^16 + x^12 + x^5 + 1 (10.8). -/
def crcBit (crc : BitVec 16) : BitVec 16 :=
  if crc.msb then (crc <<< 1) ^^^ 0x1021#16 else crc <<< 1

/-- One byte of the CRC, most significant bit first. -/
def crcByte (crc : BitVec 16) (b : Byte) : BitVec 16 :=
  let c := crc ^^^ ((b.setWidth 16) <<< 8)
  crcBit (crcBit (crcBit (crcBit (crcBit (crcBit (crcBit (crcBit c)))))))

/-- The CRC-16 of 10.8: initial value 0xFFFF, no final inversion. -/
def crc16 (bs : List Byte) : BitVec 16 := bs.foldl crcByte 0xFFFF#16

/-- The decimal digit of a number below 10, as a character. -/
def digit (n : Nat) : Byte := byte (0x30 + n % 10)

/-- Two decimal digits, with a leading zero. -/
def twoDigits (n : Nat) : List Byte := [digit (n / 10), digit n]

/-- The civil minute of a record minute: (DAY START + m) modulo 1440 (00_scope.md). -/
def civilMinute (dayStart : Nat) (m : Int) : Nat := (((dayStart : Int) + m) % 1440).toNat

/-- A civil time printed as HH:MM with leading zeros (00_scope.md). -/
def civilText (dayStart : Nat) (m : Int) : List Byte :=
  let c := civilMinute dayStart m
  twoDigits (c / 60) ++ [0x3A] ++ twoDigits (c % 60)

/-- A decimal number below 100 without leading zeros. -/
def decimal (n : Nat) : List Byte :=
  if n < 10 then [digit n] else twoDigits n

end Sys2Proof.Machine
end

