-- ==== Sys2Proof/Machine/Defaults.lean ====
section
/-! DEFINITION. The default value of every configuration item (11.1, 3.1, 4.1, 10.4). -/

namespace Sys2Proof.Machine

/-- REMARK TEXT defaults: "Rows 0 to 6 in that order, cell 0, length 10; EXPECTED length 5" (11.1). -/
def defaultRemarks : RemarkTexts where
  cancelled := ⟨0, 10, by decide⟩
  departed := ⟨1, 10, by decide⟩
  closing := ⟨2, 10, by decide⟩
  platformChanged := ⟨3, 10, by decide⟩
  expected := ⟨4, 5, by decide⟩
  boarding := ⟨5, 10, by decide⟩
  onTime := ⟨6, 10, by decide⟩

/-- The default plan of W0, and, disabled, of W1 to W3 (11.1). -/
def defaultPlan (enabled : Bool) : ChainPlan where
  enabled := enabled
  width := 48
  roles := [.clock, .list, .list, .list, .list, .list, .list, .list, .list, .notice]
  sectorMask := 0xF
  platformFilter := 0
  pinned := 2
  pagePeriod := 8
  refreshPeriod := 1000
  timeMode := .clocktime

/-- A line's defaults: YES, 500 ms, 2 s, 60 minutes (9.1). -/
def defaultLine : LineConfig where
  enabled := true
  width := 500
  fast := 2
  wait := 60

/-- The routing defaults of R180. -/
def defaultRouting : Routing where
  timeStepped := .both
  timeRefLost := .both
  timeRefRegained := .both
  dayRollover := .both
  clockLineFault := .both
  chainFault := .both
  platformConflict := .holder
  boardChanged := .holder
  cueDropped := .holder
  configDefaulted := .both

/-- Every item at its default (11.1). -/
def defaultSettings : Settings where
  dayStart := 240
  stepLimit := 2
  onTimeTolerance := 2
  callLead := 15
  closeLead := 2
  departGrace := 3
  goneHold := 1
  cancelHold := 15
  delayCueThreshold := 5
  delayCueStep := 5
  conflictWindow := 3
  changeFlash := 5
  yieldTime := 30
  holdSilence := 10
  seizeEnable := true
  plans := #v[defaultPlan true, defaultPlan false, defaultPlan false, defaultPlan false]
  remarks := defaultRemarks
  autoDelayNotices := true
  noticePeriod := 4
  scheduling := .weighted
  platformWeight := 4
  delayWeight := 2
  routineWeight := 1
  playTimeout := 120
  lines := #v[defaultLine, defaultLine, defaultLine, defaultLine]
  routing := defaultRouting

end Sys2Proof.Machine
end

