-- ==== Sys2Proof/Machine/State.lean ====
section
/-! DEFINITION. The state of the part: every item the chapters' "holds" tables name, as plain data, and the state
after reset. A minute on the board minute scale is an Int (00_scope.md, Time quantities). -/

namespace Sys2Proof.Machine

/-- The reasons the model stops. Only an ill-formed command reaches one. -/
inductive Fault where
  /-- Raised by ROW_STORAGE_FAULT for a row above 511, an address the Text Store does not have (5.1, log 37). Safe. -/
  | noSuchRow
deriving DecidableEq, Repr

/-- The reasons the model declines a command. No arm of exec answers with one. -/
inductive Refusal where
  /-- Raised by an arm of exec that has no meaning yet; there is none. Safe. -/
  | notModelled (mnemonic : String)
deriving DecidableEq, Repr

/-! ### Timers -/

/-- A timer that is stopped, or running with the time left (in units of 1/1024000 s: 1000 a tick, 1024 a
millisecond, log 9). -/
inductive Timer where
  | stopped
  | running (left : Nat)
deriving DecidableEq, Repr

/-- A timer that stays RUN_OUT after its period has passed (page, refresh and spacing timers). -/
inductive LatchTimer where
  | stopped
  | running (left : Nat)
  | runOut
deriving DecidableEq, Repr

/-! ### Power, straps and identity (chapter 11) -/

/-- R190: whether the part is held in reset, the step of the start-up sequence that is next (absent once the sequence
is done; log 23), and which supplies are present. -/
structure Power where
  held : Bool
  startup : Option StartStage
  main : Bool
  backup : Bool
deriving DecidableEq, Repr

/-- What start-up fixes and READ IDENT reports (R191). -/
structure Ident where
  straps : Straps
  failingRows : Nat
  configDefaulted : Bool
  retentionValid : Bool
deriving DecidableEq, Repr

/-! ### Events, replies and ports (chapter 10) -/

/-- The kind byte of TIME_STEPPED (10.8). -/
inductive StepKind where
  | forward | hold | pulseStep
deriving DecidableEq, Repr

/-- The four cue classes (8.1), in priority order. -/
inductive CueClass where
  | safety | platform | delay | routine
deriving DecidableEq, Repr

/-- The six cue kinds (8.1). -/
inductive CueKind where
  | notice | platformChange | delay | cancel | call | closing
deriving DecidableEq, Repr

/-- What a commit was of: a row, or the configuration (R91). -/
inductive CommitOf where
  | row (row : Nat)
  | config
deriving DecidableEq, Repr

/-- An event with its detail (10.8, event codes and event details). -/
inductive Event where
  | authorityLost (seizer : Ctrl)
  | authorityExpired
  | authorityGranted
  | yieldAsked (requester : Ctrl)
  | requestLapsed
  | timeStepped (kind : StepKind) (minute : Nat)
  | timeRefLost
  | timeRefRegained
  | dayRollover
  | clockLineFault (line : Line) (kind : FaultKind)
  | chainFault (chain : Chain) (row : Nat)
  | platformConflict (platform : Nat) (lower higher : Slot)
  | boardChanged (slot : Slot)
  | cueDropped (cls : CueClass)
  | commitDone (what : CommitOf)
  | commitFailed (what : CommitOf)
  | watchFired (items : BitVec 16) (vector : List Byte)
  | configDefaulted
  | safetyCueReady
  | cueSuperseded (handle : Nat)
  | cueReady
deriving DecidableEq, Repr

/-- The reply statuses (10.8). -/
inductive Status where
  | done | accepted | pending
  | notAuthority | busy | badCommand | badArgument | noRecord | duplicate | tableFull | outOfWindow | wrongState
  | isProtected | queueFull | noCue
deriving DecidableEq, Repr

/-- A reply: its status and payload (R176). -/
structure Reply where
  status : Status
  payload : List Byte
deriving DecidableEq, Repr

/-- The receiver state (R174), with the bytes received since SYNC in IN_FRAME. -/
inductive Receiver where
  | hunt
  | inFrame (bytes : List Byte)
deriving DecidableEq, Repr

/-- Where the command in service stands: waiting for its block, taken by it, or answered (R175, R176; model's own). -/
inductive Stage where
  | waiting
  | taken
  | replied (reply : Reply)
deriving DecidableEq, Repr

/-- The service state (R175), with the command in service while SERVING. -/
inductive Service where
  | idle
  | serving (code : Byte) (payload : List Byte) (stage : Stage)
deriving DecidableEq, Repr

/-- A posted watch: a mask over the eleven items of the status vector, and a value for each (R181). -/
structure Watch where
  mask : BitVec 16
  values : List Byte
deriving DecidableEq, Repr

/-- What one port holds (10.1). The set is kept in ascending code; `enables` has bit `code` for each kind; `attention`
is the line as the set drives it, which the pin shows from the opening of the ports on (State.attentionLine, R190). -/
structure PortState where
  receiver : Receiver
  service : Service
  events : List Event
  enables : BitVec 35
  attention : Bool
  watch : Option Watch
  badFrames : Counter
  overruns : Counter
deriving DecidableEq, Repr

structure Ports where
  p0 : PortState
  p1 : PortState
  cp : PortState
deriving DecidableEq, Repr

/-! ### Update Authority Arbiter (chapter 4) -/

/-- 4.1: `holder` absent is FREE. -/
structure Arbiter where
  holder : Option Ctrl
  waiting : Option Ctrl
  yield : Timer
  silence : Timer
deriving DecidableEq, Repr

/-! ### Time Base (chapter 1) -/

/-- The time state, with the hold minute in HOLDING (1.1). -/
inductive TimeState where
  | unset
  | running
  | holding (h : Nat)
deriving DecidableEq, Repr

inductive RefState where
  | noRef | locked | lost
deriving DecidableEq, Repr

/-- How the second in progress differs from 1024 ticks (R1). -/
inductive Adjustment where
  | normal
  | shortened (a : Nat)
  | lengthened (a : Nat)
deriving DecidableEq, Repr

/-- What the Time Base delivers, in order: a service-day rollover, a minute event, an event, the reply DONE of a
SET TIME (R4, R6, R14; log 13). -/
inductive Delivery where
  | rollover
  | minute (n : Nat)
  | event (e : Event)
  | reply (port : Ctrl)
deriving DecidableEq, Repr

/-- The stage of a rollover in progress (R4): the block whose rebase stage is next. -/
inductive RolloverStage where
  | table | composer | scheduler
deriving DecidableEq, Repr

/-- 1.1: S is `second`, F is `tick`, Q is `slew`; the rest as named there or by logs 11 and 13. -/
structure TimeBase where
  state : TimeState
  second : Nat
  tick : Nat
  slew : Int
  adjustment : Adjustment
  secondTicks : Nat
  completionDue : Bool
  ref : RefState
  pulseInterval : Option Nat
  accepted : Counter
  spurious : Counter
  rollover : Option RolloverStage
  outbox : List Delivery
deriving DecidableEq, Repr

/-! ### Departure Table (chapters 2 and 3) -/

/-- A record's state, with the gone minute in GONE and the cancel minute in CANCELLED (2.1). -/
inductive RecordState where
  | waiting | called | closing
  | gone (minute : Int)
  | cancelled (minute : Int)
deriving DecidableEq, Repr

/-- A record (2.1). `previous` holds the previous platform and the change minute, present together; `mask` has the
bits of 10.8: 0 CALL, 1 CLOSING, 2 PLATFORM_CHANGE, 3 DELAY, 4 CANCEL. -/
structure Record where
  code : List Byte
  state : RecordState
  sched : Int
  expected : Option Int
  clamped : Bool
  platform : Option Nat
  previous : Option (Nat × Int)
  destination : TextRef
  via : Option TextRef
  remark : Option TextRef
  sector : Fin 4
  mask : BitVec 5
  callIssued : Bool
  closingIssued : Bool
  lastDelay : Option Int
  conflict : Bool
deriving DecidableEq, Repr

/-- What a block takes from the Time Base, in order: a rebase stage or a minute event (R3, R5). -/
inductive MinuteItem where
  | rebase
  | minute (n : Nat)
deriving DecidableEq, Repr

/-- 2.1: `timed` is the table mode TIMED; `pairs` is the conflict pair set, lower slot first. -/
structure Table where
  slots : Vector (Option Record) 96
  order : List Slot
  working : Int
  timed : Bool
  pairs : List (Slot × Slot)
  inbox : List MinuteItem
deriving DecidableEq, Repr

/-! ### Text Store (chapter 5) -/

/-- A staging column: a cell 0 to 15, or END (5.2). -/
inductive Column where
  | cell (i : Fin 16)
  | atEnd
deriving DecidableEq, Repr

/-- A staging buffer (5.2). -/
structure Staging where
  row : Fin 512
  column : Column
  cells : Vector Byte 16
  loaded : Vector Bool 16
deriving DecidableEq, Repr

/-- The operation of the commit engine (5.3). -/
inductive CommitOp where
  | row (row : Fin 512) (cells : List Byte)
  | config (items : Settings)
deriving DecidableEq, Repr

/-- The commit engine while BUSY: the operation in flight and the issuing port (5.3). -/
structure Commit where
  op : CommitOp
  issuer : Ctrl
deriving DecidableEq, Repr

/-- 5.1 to 5.3: `cells` is the stored text, in canonical form (an unlisted cell reads 0x20); `failing` the rows whose
check value does not match, ascending; `engine` absent is IDLE. -/
structure TextStore where
  cells : List Host.Cell
  failing : List Nat
  staging0 : Staging
  staging1 : Staging
  engine : Option Commit
deriving DecidableEq, Repr

/-! ### Wall Composer (chapter 6) -/

structure Notice where
  ref : TextRef
  priority : Nat
  expiry : Option Int
deriving DecidableEq, Repr

/-- A notice item: a position of the notice list, or an automatic delay notice named by slot and code (6.2). -/
inductive NoticeItem where
  | position (p : Fin 8)
  | automatic (slot : Slot) (code : List Byte)
deriving DecidableEq, Repr

structure Cursor where
  item : NoticeItem
  part : Nat
deriving DecidableEq, Repr

/-- The composition in flight (R106), with its image and whether the link has passed the row (model's own). -/
structure Composition where
  chain : Chain
  row : Nat
  image : LineImage
  passed : Bool
deriving DecidableEq, Repr

/-- What the composer holds for one chain (6.2); `partOwed` says that a SET NOTICE restarted the part timer before the
expiry of its former period was taken, so that expiry is still to come (R121, log 40; model's own). -/
structure ChainView where
  plan : ChainPlan
  running : Bool
  pages : List (Slot × List Byte)
  page : Nat
  pageTimer : LatchTimer
  nextRow : Nat
  cursor : Option Cursor
  partTimer : Timer
  partOwed : Bool
deriving DecidableEq, Repr

/-- 6.2: `clockSet` is the clock state SET; `engine` absent is IDLE. -/
structure Composer where
  working : Int
  clockSet : Bool
  notices : Vector (Option Notice) 8
  engine : Option Composition
  lastServed : Chain
  views : Vector ChainView 4
  inbox : List MinuteItem
deriving DecidableEq, Repr

/-! ### Chain Links (chapter 7) -/

/-- A frame to a chain (R123): what its kind carries, and the check value that each kind carries. Its row number is the
current row of the link state it stands in. -/
structure ChainFrame where
  content : FrameContent
  check : List Byte
deriving DecidableEq, Repr

/-- The link state (7.2), with the current row and the frame sent for it. -/
inductive LinkState where
  | notStarted | lead
  | rowOut (row : Nat) (frame : ChainFrame)
  | answerWait (row : Nat) (frame : ChainFrame)
  | ended | halted
deriving DecidableEq, Repr

/-- A place of a feed buffer (7.2). -/
inductive FeedPlace where
  | reserved (row : Nat)
  | image (row : Nat) (image : LineImage)
deriving DecidableEq, Repr

inductive LastAnswer where
  | ok | cellsDegraded | absent
deriving DecidableEq, Repr

structure ModuleStatus where
  last : LastAnswer
  absentRun : Nat
deriving DecidableEq, Repr

structure Link where
  state : LinkState
  rowCount : Nat
  disabled : Bool
  clean : Bool
  refresh : LatchTimer
  feed : List FeedPlace
  modules : Vector ModuleStatus 12
  fault : Bool
  stale : Counter
  absent : Counter
deriving DecidableEq, Repr

/-! ### Cue Scheduler (chapter 8) -/

/-- A cue (R134); which optional fields it holds is fixed by its kind. -/
structure Cue where
  handle : Nat
  kind : CueKind
  slot : Option Slot
  code : List Byte
  platform : Option Nat
  previous : Option Nat
  effective : Option Int
  delay : Option Int
  destination : Option TextRef
  remark : Option TextRef
  text : Option TextRef
  repeats : Nat
  issued : Int
deriving DecidableEq, Repr

/-- The playing cue, its superseded flag and the time left of the play timer (8.2). -/
structure Playing where
  cue : Cue
  superseded : Bool
  left : Nat
deriving DecidableEq, Repr

/-- What an issue carries (R25). -/
structure Issue where
  kind : CueKind
  slot : Slot
  code : List Byte
  platform : Option Nat
  previous : Option Nat
  effective : Int
  delay : Int
  destination : TextRef
  remark : Option TextRef
  issued : Int
deriving DecidableEq, Repr

/-- What a refresh carries (R25). -/
structure Refresh where
  slot : Slot
  platform : Option Nat
  effective : Int
  delay : Int
  remark : Option TextRef
deriving DecidableEq, Repr

/-- Whether an ended record is CANCELLED or GONE (R25). -/
inductive Ending where
  | cancelled | gone
deriving DecidableEq, Repr

/-- The notifications of R25. -/
inductive Notification where
  | issue (i : Issue)
  | refresh (r : Refresh)
  | withdraw (slot : Slot) (kinds : List CueKind)
  | ended (slot : Slot) (how : Ending)
  | freed (slot : Slot)
  | cleared
deriving DecidableEq, Repr

/-- What the scheduler takes from the table, in order (R26, R138): a notification with the port whose command handed
it (absent: a minute event did), or the rebase stage. -/
inductive CueMessage where
  | notice (n : Notification) (origin : Option Ctrl)
  | rebase
deriving DecidableEq, Repr

/-- 8.2. -/
structure Cues where
  safety : List Cue
  platform : List Cue
  delay : List Cue
  routine : List Cue
  playing : Option Playing
  creditPlatform : Nat
  creditDelay : Nat
  creditRoutine : Nat
  nextHandle : Nat
  working : Int
  dropSafety : Counter
  dropPlatform : Counter
  dropDelay : Counter
  dropRoutine : Counter
  withdrawnPlatform : Counter
  withdrawnDelay : Counter
  withdrawnRoutine : Counter
  playTimeouts : Counter
  minutes : List Nat
  inbox : List CueMessage
deriving DecidableEq, Repr

/-! ### Clock Line Driver (chapter 9) -/

inductive Polarity where
  | positive | negative
deriving DecidableEq, Repr

/-- A line's state, with its fault kind in FAULT (9.1). -/
inductive LineState where
  | off | unknown | noTime | inStep | catching | waiting
  | fault (kind : FaultKind)
deriving DecidableEq, Repr

/-- The impulse a line is driven with, as fixed at its start (R160). -/
structure Impulse where
  polarity : Polarity
  width : Nat
deriving DecidableEq, Repr

/-- A line record (9.1); an impulse present is "impulse in flight". -/
structure LineRecord where
  state : LineState
  shown : Option Nat
  polarity : Polarity
  impulse : Option Impulse
  offRequested : Bool
  spacing : LatchTimer
deriving DecidableEq, Repr

structure ClockDriver where
  working : Nat
  clockSet : Bool
  lines : Vector LineRecord 4
  inbox : List Nat
deriving DecidableEq, Repr

/-! ### Configuration and retention (chapter 11) -/

/-- The stored configuration block's bytes (11.2); `cutOff` says that a commit to it was cut off by a reset, which
leaves it failing its CRC (R99). -/
structure StoredBlock where
  bytes : List Byte
  cutOff : Bool
deriving DecidableEq, Repr

structure RetentionEntry where
  shown : Nat
  polarity : Polarity
  inFlight : Bool
deriving DecidableEq, Repr

/-- The retention area (11.3); `valid` says that its check value matches. -/
structure Retention where
  entries : Vector RetentionEntry 4
  valid : Bool
deriving DecidableEq, Repr

/-- The state of the part, and the queue of commands that wait. -/
structure State where
  pending : List Instr
  power : Power
  ident : Ident
  settings : Settings
  stored : StoredBlock
  retention : Retention
  ports : Ports
  arbiter : Arbiter
  time : TimeBase
  table : Table
  store : TextStore
  composer : Composer
  links : Vector Link 4
  cues : Cues
  clock : ClockDriver
deriving DecidableEq, Repr

/-! ### After reset -/

/-- R185. -/
def PortState.reset : PortState where
  receiver := .hunt
  service := .idle
  events := []
  enables := BitVec.allOnes 35
  attention := false
  watch := none
  badFrames := 0
  overruns := 0

/-- R84. -/
def Arbiter.reset : Arbiter where
  holder := none
  waiting := none
  yield := .stopped
  silence := .stopped

/-- R20. -/
def TimeBase.reset : TimeBase where
  state := .unset
  second := 0
  tick := 0
  slew := 0
  adjustment := .normal
  secondTicks := 0
  completionDue := false
  ref := .noRef
  pulseInterval := none
  accepted := 0
  spurious := 0
  rollover := none
  outbox := []

/-- R53. -/
def Table.reset : Table where
  slots := Vector.replicate 96 none
  order := []
  working := 0
  timed := false
  pairs := []
  inbox := []

/-- R99: target row 0, column 0, all cells not loaded and every code 0x20. -/
def Staging.reset : Staging where
  row := 0
  column := .cell 0
  cells := Vector.replicate 16 0x20
  loaded := Vector.replicate 16 false

/-- R122, for one chain; the cycle plan before the first cycle start is log 28's. -/
def ChainView.reset : ChainView where
  plan := defaultPlan false
  running := false
  pages := []
  page := 0
  pageTimer := .stopped
  nextRow := 1
  cursor := none
  partTimer := .stopped
  partOwed := false

/-- R122. -/
def Composer.reset : Composer where
  working := 0
  clockSet := false
  notices := Vector.replicate 8 none
  engine := none
  lastServed := 3
  views := Vector.replicate 4 ChainView.reset
  inbox := []

/-- R132. -/
def Link.reset : Link where
  state := .notStarted
  rowCount := 1
  disabled := false
  clean := true
  refresh := .stopped
  feed := []
  modules := Vector.replicate 12 ⟨.absent, 0⟩
  fault := false
  stale := 0
  absent := 0

/-- R156, with the credits at the default weights until start-up loads them. -/
def Cues.reset : Cues where
  safety := []
  platform := []
  delay := []
  routine := []
  playing := none
  creditPlatform := 4
  creditDelay := 2
  creditRoutine := 1
  nextHandle := 1
  working := 0
  dropSafety := 0
  dropPlatform := 0
  dropDelay := 0
  dropRoutine := 0
  withdrawnPlatform := 0
  withdrawnDelay := 0
  withdrawnRoutine := 0
  playTimeouts := 0
  minutes := []
  inbox := []

/-- A line while the part is held; R171's restoration replaces it (log 27). -/
def LineRecord.reset : LineRecord where
  state := .unknown
  shown := none
  polarity := .positive
  impulse := none
  offRequested := false
  spacing := .stopped

/-- R171. -/
def ClockDriver.reset : ClockDriver where
  working := 0
  clockSet := false
  lines := Vector.replicate 4 LineRecord.reset
  inbox := []

/-- The entry the driver writes where the area is invalid (R171). -/
def RetentionEntry.rewritten : RetentionEntry where
  shown := 0
  polarity := .positive
  inFlight := true

/-- The machine right after reset: held at its first power-on, every block in its after-reset state, RESET_END still
to come (R190, log 4). The nonvolatile contents before their first use are logs 5, 6 and 7. -/
def State.reset : State where
  pending := []
  power := ⟨true, some .straps, true, true⟩
  ident := ⟨⟨0, false, false, false, false⟩, 0, false, false⟩
  settings := defaultSettings
  stored := ⟨[], false⟩
  retention := ⟨Vector.replicate 4 RetentionEntry.rewritten, false⟩
  ports := ⟨PortState.reset, PortState.reset, PortState.reset⟩
  arbiter := Arbiter.reset
  time := TimeBase.reset
  table := Table.reset
  store := ⟨[], [], Staging.reset, Staging.reset, none⟩
  composer := Composer.reset
  links := Vector.replicate 4 Link.reset
  cues := Cues.reset
  clock := ClockDriver.reset

end Sys2Proof.Machine
end

