-- ==== Sys2Proof/Machine/Flags.lean ====
section
/-! DEFINITION. The part's flags: pending-event sets, event enables and attention lines (10.4), event routing (R180),
the status vector and the watches (10.5), and counters that stop at 65535 (R183). -/

namespace Sys2Proof

def Ctrl.port : Ctrl → Port
  | .p0 => .p0
  | .p1 => .p1

/-- "The other port" is always the other of P0 and P1 (00_scope.md). -/
def Ctrl.other : Ctrl → Ctrl
  | .p0 => .p1
  | .p1 => .p0

def Ctrl.number : Ctrl → Nat
  | .p0 => 0
  | .p1 => 1

end Sys2Proof

namespace Sys2Proof.Machine

/-! ### Counters -/

/-- "No counter wraps: each stops at 65535" (R183). -/
def increment (c : Counter) : Counter := if c = 0xFFFF then c else c + 1

/-- `n` increments. -/
def incrementBy : Nat → Counter → Counter
  | 0, c => c
  | n + 1, c => incrementBy n (increment c)

/-! ### Operating -/

/-- The ports are open and the blocks take their commands: the part is not held, and start-up has come to the opening
of the ports (R190). -/
def Power.operates (p : Power) : Bool :=
  !p.held && (match p.startup with
    | none | some .cycles => true
    | some .straps | some .configuration | some .rows | some .lines | some .ports => false)

/-! ### Ports -/

def State.port (s : State) : Port → PortState
  | .p0 => s.ports.p0
  | .p1 => s.ports.p1
  | .cp => s.ports.cp

def State.setPort (s : State) : Port → PortState → State
  | .p0, x => { s with ports := { s.ports with p0 := x } }
  | .p1, x => { s with ports := { s.ports with p1 := x } }
  | .cp, x => { s with ports := { s.ports with cp := x } }

/-- The attention line at the pin: "each attention line shows its pending-event set" from the opening of the ports
(R190, R177). -/
def State.attentionLine (s : State) (p : Port) : Bool := s.power.operates && (s.port p).attention

/-! ### Events -/

/-- The event codes of 10.8. -/
def Event.code : Event → Nat
  | .authorityLost _ => 1
  | .authorityExpired => 2
  | .authorityGranted => 3
  | .yieldAsked _ => 4
  | .requestLapsed => 5
  | .timeStepped _ _ => 6
  | .timeRefLost => 7
  | .timeRefRegained => 8
  | .dayRollover => 9
  | .clockLineFault _ _ => 10
  | .chainFault _ _ => 11
  | .platformConflict _ _ _ => 12
  | .boardChanged _ => 13
  | .cueDropped _ => 14
  | .commitDone _ => 15
  | .commitFailed _ => 16
  | .watchFired _ _ => 17
  | .configDefaulted => 18
  | .safetyCueReady => 32
  | .cueSuperseded _ => 33
  | .cueReady => 34

def CueClass.number : CueClass → Nat
  | .safety => 0
  | .platform => 1
  | .delay => 2
  | .routine => 3

def CommitOf.detail : CommitOf → List Byte
  | .row r => be16 r
  | .config => [0xFF, 0xFF]

/-- The detail bytes of an event (10.8). -/
def Event.detail : Event → List Byte
  | .authorityLost c => [byte c.number]
  | .yieldAsked c => [byte c.number]
  | .timeStepped k m => (match k with | .forward => 0 | .hold => 1 | .pulseStep => 2) :: be16 m
  | .clockLineFault l k => [byte l.val, match k with | .openLine => 0 | .short => 1]
  | .chainFault c r => [byte c.val, byte r]
  | .platformConflict p lo hi => [byte p, byte lo.val, byte hi.val]
  | .boardChanged slot => [byte slot.val]
  | .cueDropped c => [byte c.number]
  | .commitDone w => w.detail
  | .commitFailed w => w.detail
  | .watchFired items v => be16 items.toNat ++ v
  | .cueSuperseded h => [byte h]
  | .authorityExpired | .authorityGranted | .requestLapsed | .timeRefLost | .timeRefRegained | .dayRollover
  | .configDefaulted | .safetyCueReady | .cueReady => []

/-- Enter an event into a set kept in ascending code: "Where the set already holds the kind, the entry keeps its place
and takes the detail of the new occurrence" (R177). -/
def insertEvent (e : Event) : List Event → List Event
  | [] => [e]
  | x :: xs =>
    if e.code < x.code then e :: x :: xs
    else if e.code = x.code then e :: xs
    else x :: insertEvent e xs

/-- Replace the set; the attention line is "ASSERTED while the set holds one or more entries" (R177). -/
def PortState.withEvents (ps : PortState) (events : List Event) : PortState :=
  { ps with events := events, attention := !events.isEmpty }

/-- An event raised to a port enters its set where the enable of its kind is ON (R177). -/
def PortState.enter (ps : PortState) (e : Event) : PortState :=
  if ps.enables.getLsbD e.code then ps.withEvents (insertEvent e ps.events) else ps

/-- Raise an event to one port. -/
def State.raise (s : State) (p : Port) (e : Event) : State := s.setPort p ((s.port p).enter e)

/-- Raise an event to both control ports, each by its own enable (R177). -/
def State.raiseBoth (s : State) (e : Event) : State := (s.raise .p0 e).raise .p1 e

/-- The routing item of an event kind, where it has one (R180). -/
def Event.route (r : Routing) : Event → Option Route
  | .timeStepped _ _ => some r.timeStepped
  | .timeRefLost => some r.timeRefLost
  | .timeRefRegained => some r.timeRefRegained
  | .dayRollover => some r.dayRollover
  | .clockLineFault _ _ => some r.clockLineFault
  | .chainFault _ _ => some r.chainFault
  | .platformConflict _ _ _ => some r.platformConflict
  | .boardChanged _ => some r.boardChanged
  | .cueDropped _ => some r.cueDropped
  | .configDefaulted => some r.configDefaulted
  | .authorityLost _ | .authorityExpired | .authorityGranted | .yieldAsked _ | .requestLapsed
  | .commitDone _ | .commitFailed _ | .watchFired _ _ | .safetyCueReady | .cueSuperseded _ | .cueReady => none

/-- Raise an event as its routing item directs: HOLDER "to the holder of update authority at the moment it is raised,
and to both control ports while the authority state is FREE" (R180). -/
def State.raiseRouted (s : State) (e : Event) : State :=
  match e.route s.settings.routing with
  | some .both => s.raiseBoth e
  | some .holder =>
    match s.arbiter.holder with
    | some c => s.raise c.port e
    | none => s.raiseBoth e
  | some .none => s
  | none => s

/-- Raise events one after another, as their routing items direct. -/
def State.raiseAll (s : State) : List Event → State
  | [] => s
  | e :: es => (s.raiseRouted e).raiseAll es

/-! ### The status vector and the watches -/

def authorityItem (a : Arbiter) : Byte :=
  match a.holder with
  | none => 0
  | some .p0 => 1
  | some .p1 => 2

def timeItem (t : TimeBase) : Byte :=
  match t.state with
  | .unset => 0
  | .running => 1
  | .holding _ => 2

def refItem (t : TimeBase) : Byte :=
  match t.ref with
  | .noRef => 0
  | .locked => 1
  | .lost => 2

/-- Line states in the order of 10.5. -/
def LineState.number : LineState → Byte
  | .off => 0
  | .unknown => 1
  | .noTime => 2
  | .inStep => 3
  | .catching => 4
  | .waiting => 5
  | .fault _ => 6

/-- The fault item: SET is 0, CLEAR is 1, the positions in the table of 10.5. -/
def faultItem (l : Link) : Byte := if l.fault then 0 else 1

/-- The eleven items in the order of 10.5, each the position of its value there (10.8). -/
def statusVector (s : State) : List Byte :=
  [authorityItem s.arbiter, timeItem s.time, refItem s.time,
   s.clock.lines[0].state.number, s.clock.lines[1].state.number,
   s.clock.lines[2].state.number, s.clock.lines[3].state.number,
   faultItem s.links[0], faultItem s.links[1], faultItem s.links[2], faultItem s.links[3]]

/-- The masked items whose present value differs from the value posted, as a mask (R181). -/
def Watch.differing (w : Watch) (v : List Byte) : BitVec 16 :=
  (List.range 11).foldl
    (fun acc i => if w.mask.getLsbD i && w.values[i]? != v[i]? then acc ||| (1#16 <<< i) else acc) 0

/-- Raise WATCH_FIRED to a port and remove its watch (R181, R182). -/
def State.fireWatch (s : State) (c : Ctrl) (items : BitVec 16) : State :=
  (s.setPort c.port { s.port c.port with watch := none }).raise c.port (.watchFired items (statusVector s))

/-- "A change of a status vector item that a kept watch masks, and that leaves the item differing from the value
posted, raises WATCH_FIRED ... and removes the watch" (R182), for one port; `before` is the vector before the change. -/
def State.offerTo (c : Ctrl) (before : List Byte) (s : State) : State :=
  match (s.port c.port).watch with
  | none => s
  | some w =>
    if (List.range 11).any (fun i =>
        w.mask.getLsbD i && before[i]? != (statusVector s)[i]? && w.values[i]? != (statusVector s)[i]?) then
      s.fireWatch c (w.differing (statusVector s))
    else s

/-- Offer the changes between two states to the watches of both control ports (10.5). -/
def State.noted (old new : State) : State :=
  State.offerTo .p1 (statusVector old) (State.offerTo .p0 (statusVector old) new)

end Sys2Proof.Machine
end

