-- ==== Sys2Proof/Machine/Codes.lean ====
section
/-! DEFINITION. The command codes of 10.8, and which port takes which. -/

namespace Sys2Proof.Machine

def codeRequestAuthority : Byte := 0x01
def codeSeizeAuthority : Byte := 0x02
def codeReleaseAuthority : Byte := 0x03
def codeReadAuthority : Byte := 0x04
def codeInsertDeparture : Byte := 0x10
def codeAmendExpected : Byte := 0x11
def codeAssignPlatform : Byte := 0x12
def codeSetRemark : Byte := 0x13
def codeSetSector : Byte := 0x14
def codeSetAnnounceMask : Byte := 0x15
def codeCancelDeparture : Byte := 0x16
def codeReinstate : Byte := 0x17
def codeMarkDeparted : Byte := 0x18
def codeRemoveDeparture : Byte := 0x19
def codeClearBoard : Byte := 0x1A
def codeReadRecord : Byte := 0x1B
def codeReadList : Byte := 0x1C
def codeSetTime : Byte := 0x20
def codeReadTime : Byte := 0x21
def codeSetTextAddress : Byte := 0x28
def codeLoadText : Byte := 0x29
def codeCommitRow : Byte := 0x2A
def codeDiscardStaging : Byte := 0x2B
def codeReadTextRow : Byte := 0x2C
def codeSetNotice : Byte := 0x30
def codeClearNotice : Byte := 0x31
def codeReadNotices : Byte := 0x32
def codeAnnounce : Byte := 0x38
def codeReadCueStatus : Byte := 0x39
def codeFetchCue : Byte := 0x3A
def codeCueDone : Byte := 0x3B
def codeSetDialShown : Byte := 0x40
def codeClearLineFault : Byte := 0x41
def codeLineOff : Byte := 0x42
def codeLineOn : Byte := 0x43
def codeReadLines : Byte := 0x44
def codeReadEvent : Byte := 0x48
def codeSetEventEnable : Byte := 0x49
def codePostWatch : Byte := 0x4A
def codeWriteConfigItem : Byte := 0x50
def codeReadConfigItem : Byte := 0x51
def codeCommitConfig : Byte := 0x52
def codeReadCounters : Byte := 0x58
def codeClearCounters : Byte := 0x59
def codeReadIdent : Byte := 0x5A

/-- The commands taken on every port (10.8, Command codes). -/
def codesOfAllPorts : List Byte :=
  [codeReadTime, codeReadTextRow, codeReadEvent, codeReadCounters, codeReadIdent]

/-- The commands taken on P0 and P1 alone. -/
def codesOfControlPorts : List Byte :=
  [codeRequestAuthority, codeSeizeAuthority, codeReleaseAuthority, codeReadAuthority,
   codeInsertDeparture, codeAmendExpected, codeAssignPlatform, codeSetRemark, codeSetSector, codeSetAnnounceMask,
   codeCancelDeparture, codeReinstate, codeMarkDeparted, codeRemoveDeparture, codeClearBoard, codeReadRecord,
   codeReadList, codeSetTime, codeSetTextAddress, codeLoadText, codeCommitRow, codeDiscardStaging,
   codeSetNotice, codeClearNotice, codeReadNotices, codeAnnounce, codeReadCueStatus,
   codeSetDialShown, codeClearLineFault, codeLineOff, codeLineOn, codeReadLines,
   codeSetEventEnable, codePostWatch, codeWriteConfigItem, codeReadConfigItem, codeCommitConfig, codeClearCounters]

/-- The commands taken on the Cue Port alone. -/
def codesOfCuePort : List Byte := [codeFetchCue, codeCueDone]

/-- Whether a command code is "in the command code table of 10.8" and allowed on a port (R175). -/
def codeAllowed (p : Port) (c : Byte) : Bool :=
  codesOfAllPorts.contains c ||
    (match p with
     | .p0 | .p1 => codesOfControlPorts.contains c
     | .cp => codesOfCuePort.contains c)

/-- The status byte of a reply (10.8). -/
def Status.code : Status → Byte
  | .done => 0x00
  | .accepted => 0x01
  | .pending => 0x02
  | .notAuthority => 0x10
  | .busy => 0x11
  | .badCommand => 0x12
  | .badArgument => 0x13
  | .noRecord => 0x14
  | .duplicate => 0x15
  | .tableFull => 0x16
  | .outOfWindow => 0x17
  | .wrongState => 0x18
  | .isProtected => 0x19
  | .queueFull => 0x1A
  | .noCue => 0x1B

end Sys2Proof.Machine
end

