-- ==== Sys2Proof/Machine/Operands.lean ====
section
/-! DEFINITION. Reading the fields of command payloads (10.8), with the range of each field (R35 and the chapters that
own the commands). Every reader answers none where the field is outside its range. -/

namespace Sys2Proof.Machine

def byteAt (p : List Byte) (i : Nat) : Nat := (p.getD i 0).toNat

def u16At (p : List Byte) (i : Nat) : Nat := byteAt p i * 256 + byteAt p (i + 1)

def u24At (p : List Byte) (i : Nat) : Nat := byteAt p i * 65536 + u16At p (i + 1)

/-- A signed 16-bit number, two's complement (10.8). -/
def s16At (p : List Byte) (i : Nat) : Int :=
  if u16At p i < 32768 then (u16At p i : Int) else (u16At p i : Int) - 65536

/-- Record minutes in payloads: -1440 to 2399 (R35). -/
def minuteAt (p : List Byte) (i : Nat) : Option Int :=
  if -1440 ≤ s16At p i ∧ s16At p i ≤ 2399 then some (s16At p i) else none

/-- A record minute or absent (0x8000). -/
def optMinuteAt (p : List Byte) (i : Nat) : Option (Option Int) :=
  if u16At p i = 0x8000 then some none else (minuteAt p i).map some

/-- Platform 0 to 32, 0 meaning absent (R35). -/
def platformAt (p : List Byte) (i : Nat) : Option (Option Nat) :=
  if byteAt p i = 0 then some none
  else if byteAt p i ≤ 32 then some (some (byteAt p i))
  else none

/-- Sector 0 to 3 (R35). -/
def sectorAt (p : List Byte) (i : Nat) : Option (Fin 4) :=
  if h : byteAt p i < 4 then some ⟨byteAt p i, h⟩ else none

/-- An announce mask: any subset of the five kinds, "any other member refuses it" (R35). -/
def maskAt (p : List Byte) (i : Nat) : Option (BitVec 5) :=
  if byteAt p i < 32 then some (BitVec.ofNat 5 (byteAt p i)) else none

/-- A reference with the span check of R35: start row x 16 + length at most 8192. -/
def refOf (row len : Nat) : Option TextRef :=
  if h : 1 ≤ len ∧ len ≤ 64 ∧ row ≤ 511 ∧ row * 16 + len ≤ 8192 then some ⟨row, len, h⟩ else none

/-- A text reference that must be present. -/
def refAt (p : List Byte) (i : Nat) : Option TextRef := refOf (u16At p i) (byteAt p (i + 2))

/-- A text reference that may be absent: length 0 (10.8). -/
def optRefAt (p : List Byte) (i : Nat) : Option (Option TextRef) :=
  if byteAt p (i + 2) = 0 then some none else (refAt p i).map some

/-- A letter A to Z or a digit 0 to 9 (R34). -/
def codeChar (b : Byte) : Bool :=
  (0x41 ≤ b.toNat && b.toNat ≤ 0x5A) || (0x30 ≤ b.toNat && b.toNat ≤ 0x39)

/-- A service code of 9 bytes: "its length, 1 to 8, then its characters, padded with 0x20 to 8 bytes" (10.8, R34). -/
def codeAt (p : List Byte) (i : Nat) : Option (List Byte) :=
  let n := byteAt p i
  let chars := (p.drop (i + 1)).take 8
  if 1 ≤ n ∧ n ≤ 8 ∧ chars.length = 8 ∧ (chars.take n).all codeChar ∧ (chars.drop n).all (· == 0x20) then
    some (chars.take n)
  else none

/-- What INSERT DEPARTURE carries (2.7). -/
structure InsertRequest where
  code : List Byte
  sched : Int
  expected : Option Int
  platform : Option Nat
  destination : TextRef
  via : Option TextRef
  remark : Option TextRef
  sector : Fin 4
  mask : BitVec 5
deriving DecidableEq, Repr

/-- INSERT DEPARTURE: 25 bytes (10.8). -/
def parseInsert (p : List Byte) : Option InsertRequest :=
  if p.length = 25 then do
    let code ← codeAt p 0
    let sched ← minuteAt p 9
    let expected ← optMinuteAt p 11
    let platform ← platformAt p 13
    let destination ← refAt p 14
    let via ← optRefAt p 17
    let remark ← optRefAt p 20
    let sector ← sectorAt p 23
    let mask ← maskAt p 24
    return ⟨code, sched, expected, platform, destination, via, remark, sector, mask⟩
  else none

/-- A payload that is one service code: 9 bytes. -/
def parseCode (p : List Byte) : Option (List Byte) :=
  if p.length = 9 then codeAt p 0 else none

/-- A service code and one more field, `n` bytes in all. -/
def parseCodeAnd {α : Type} (n : Nat) (field : List Byte → Nat → Option α) (p : List Byte) :
    Option (List Byte × α) :=
  if p.length = n then do
    let code ← codeAt p 0
    let x ← field p 9
    return (code, x)
  else none

/-- What READ RECORD names (R50). -/
inductive RecordName where
  | code (code : List Byte)
  | slot (slot : Slot)
deriving DecidableEq, Repr

/-- READ RECORD: 0 and a service code, or 1 and a slot 0 to 95 (10.8, R50). -/
def parseRecordName (p : List Byte) : Option RecordName :=
  match p with
  | 0 :: rest => if rest.length = 9 then (codeAt rest 0).map RecordName.code else none
  | [1, b] => if h : b.toNat < 96 then some (.slot ⟨b.toNat, h⟩) else none
  | _ => none

/-- READ LIST: a start position 1 to 96 (R51). DESIGN CHOICE (log 45), unsafe: it is carried in one byte, for 10.8 gives its
width nowhere. -/
def parseStart (p : List Byte) : Option Nat :=
  match p with
  | [b] => if 1 ≤ b.toNat ∧ b.toNat ≤ 96 then some b.toNat else none
  | _ => none

/-- SET TIME: a time of day in seconds, 3 bytes, 0 to 86399 (R14). -/
def parseTod (p : List Byte) : Option Nat :=
  if p.length = 3 ∧ u24At p 0 ≤ 86399 then some (u24At p 0) else none

/-- A row number in 2 bytes, 0 to 511. -/
def rowAt (p : List Byte) (i : Nat) : Option (Fin 512) :=
  if h : u16At p i < 512 then some ⟨u16At p i, h⟩ else none

/-- SET TEXT ADDRESS: a row and a column 0 to 15 (R88). -/
def parseAddress (p : List Byte) : Option (Fin 512 × Fin 16) :=
  if p.length = 3 then do
    let row ← rowAt p 0
    if h : byteAt p 2 < 16 then some (row, ⟨byteAt p 2, h⟩) else none
  else none

/-- LOAD TEXT: the advance option (0 NO, 1 YES), then 1 to 48 codes (R89). -/
def parseLoad (p : List Byte) : Option (Bool × List Byte) :=
  match p with
  | a :: codes =>
    if 1 ≤ codes.length ∧ codes.length ≤ 48 ∧ a.toNat ≤ 1 then some (a == 1, codes) else none
  | [] => none

/-- READ TEXT ROW: a row (R96). -/
def parseRow (p : List Byte) : Option (Fin 512) := if p.length = 2 then rowAt p 0 else none

/-- A position of the notice list, 0 to 7. -/
def positionAt (p : List Byte) (i : Nat) : Option (Fin 8) :=
  if h : byteAt p i < 8 then some ⟨byteAt p i, h⟩ else none

/-- SET NOTICE: position, reference, priority 0 to 3, expiry minute or absent: 7 bytes (R113). -/
def parseNotice (p : List Byte) : Option (Fin 8 × Notice) :=
  if p.length = 7 then do
    let position ← positionAt p 0
    let ref ← refAt p 1
    let expiry ← optMinuteAt p 5
    if byteAt p 4 ≤ 3 then some (position, ⟨ref, byteAt p 4, expiry⟩) else none
  else none

/-- CLEAR NOTICE: a position (R114). -/
def parsePosition (p : List Byte) : Option (Fin 8) := if p.length = 1 then positionAt p 0 else none

/-- ANNOUNCE: a reference and a repeat count 0 to 3: 4 bytes (R153). -/
def parseAnnounce (p : List Byte) : Option (TextRef × Nat) :=
  if p.length = 4 then do
    let ref ← refAt p 0
    if byteAt p 3 ≤ 3 then some (ref, byteAt p 3) else none
  else none

/-- CUE DONE: a handle 1 to 255 and an outcome, 0 PLAYED or 1 ABORTED (R150); `true` is PLAYED. -/
def parseDone (p : List Byte) : Option (Nat × Bool) :=
  match p with
  | [h, o] => if 1 ≤ h.toNat ∧ o.toNat ≤ 1 then some (h.toNat, o == 0) else none
  | _ => none

/-- A line 0 to 3. -/
def lineAt (p : List Byte) (i : Nat) : Option Line :=
  if h : byteAt p i < 4 then some ⟨byteAt p i, h⟩ else none

/-- LINE OFF, LINE ON, CLEAR LINE FAULT: a line. -/
def parseLine (p : List Byte) : Option Line := if p.length = 1 then lineAt p 0 else none

/-- SET DIAL SHOWN: a line, a dial minute 0 to 719, a polarity (0 POSITIVE, 1 NEGATIVE): 4 bytes (R164). -/
def parseDial (p : List Byte) : Option (Line × Nat × Polarity) :=
  if p.length = 4 then do
    let line ← lineAt p 0
    if u16At p 1 ≤ 719 ∧ byteAt p 3 ≤ 1 then
      some (line, u16At p 1, if byteAt p 3 = 0 then .positive else .negative)
    else none
  else none

/-- WRITE CONFIG ITEM: a tag, a length, and that many value bytes (10.8). -/
def parseItem (p : List Byte) : Option (Byte × List Byte) :=
  match p with
  | tag :: len :: value => if value.length = len.toNat then some (tag, value) else none
  | _ => none

/-- SET EVENT ENABLE: 3 bytes, bit 0 of the last for code 1 up to bit 17 for code 18; any other bit is refused
(R179, 10.8). -/
def parseEnables (p : List Byte) : Option (BitVec 18) :=
  if p.length = 3 ∧ u24At p 0 < 262144 then some (BitVec.ofNat 18 (u24At p 0)) else none

/-- How many values each item of the status vector has (10.5). -/
def itemValues : List Nat := [3, 3, 3, 7, 7, 7, 7, 2, 2, 2, 2]

/-- POST WATCH: a mask of 2 bytes over the eleven items, then 11 values; a masked value outside its range is refused
(R181); a mask bit above the eleven items is refused too (DEDUCED, log 21). -/
def parseWatch (p : List Byte) : Option Watch :=
  if p.length = 13 ∧ u16At p 0 < 2048 ∧
      (List.range 11).all (fun i => !(u16At p 0).testBit i || decide (byteAt p (i + 2) < itemValues.getD i 0)) then
    some ⟨BitVec.ofNat 16 (u16At p 0), p.drop 2⟩
  else none

end Sys2Proof.Machine
end

