-- ==== Sys2Proof/Machine/Ops.lean ====
section
/-! DEFINITION. The shared operations: timers, taking and answering a command in service, the text memory, staging
buffers, the paths between the blocks and the Time Base's deliveries. -/

namespace Sys2Proof.Machine

/-! ### Outcomes -/

/-- What a step of the part answers. -/
abbrev Result := Host.Outcome State Fault Refusal

/-- A step that only an operating part takes: the part is not held and its ports are open (R190, log 3). -/
def whenOperating (s : State) (f : State → State) : Result :=
  .next (if s.power.operates then f s else s)

/-- A step of the Time Base, which "counts tick arrivals and takes MCP pulses from the end of the reset" (R190). -/
def whenReleased (s : State) (f : State → State) : Result :=
  .next (if s.power.held then s else f s)

/-! ### Timers (log 9) -/

/-- Timer units in a number of seconds. -/
def secondsLeft (n : Nat) : Nat := n * 1024000

/-- Timer units in a number of milliseconds. -/
def millisLeft (n : Nat) : Nat := n * 1024

/-- "Whole seconds remaining, rounded up" (R81, R154). -/
def wholeSeconds (left : Nat) : Nat := (left + 1023999) / 1024000

/-- One tick arrival passes. -/
def Timer.tick : Timer → Timer
  | .stopped => .stopped
  | .running left => .running (left - 1000)

def LatchTimer.tick : LatchTimer → LatchTimer
  | .stopped => .stopped
  | .running left => .running (left - 1000)
  | .runOut => .runOut

/-! ### Commands in service (10.3) -/

/-- What serving a command gives: the state after it, and its reply where it is given at once. -/
abbrev Served := State × Option Reply

def refuse (s : State) (st : Status) : Served := (s, some ⟨st, []⟩)

def done (s : State) (payload : List Byte) : Served := (s, some ⟨.done, payload⟩)

def State.setService (s : State) (p : Port) (v : Service) : State :=
  s.setPort p { s.port p with service := v }

/-- Give a port the reply to the command its block has taken (R175). -/
def State.answer (s : State) (p : Port) (r : Reply) : State :=
  match (s.port p).service with
  | .serving code payload .taken => s.setService p (.serving code payload (.replied r))
  | _ => s

/-- A block takes a port's command in service, where it is the command `code` and waits to be taken, and serves it;
any other time the row has no occasion and changes nothing (R175, logs 2 and 15). -/
def serve (p : Port) (code : Byte) (f : List Byte → State → Served) (s : State) : Result :=
  if s.power.operates then
    match (s.port p).service with
    | .serving c payload .waiting =>
      if c = code then
        match f payload (s.setService p (.serving c payload .taken)) with
        | (t, some r) => .next (t.answer p r)
        | (t, none) => .next t
      else .next s
    | _ => .next s
  else .next s

/-- The authority check, "the first of its checks" (R79). -/
def authorised (c : Ctrl) (f : List Byte → State → Served) (payload : List Byte) (s : State) : Served :=
  if s.arbiter.holder = some c then f payload s else refuse s .notAuthority

/-- A command that carries no payload: any other length is refused BAD_ARGUMENT (10.8). -/
def withoutPayload (f : State → Served) (payload : List Byte) (s : State) : Served :=
  if payload = [] then f s else refuse s .badArgument

/-- A command whose payload is read by `parse`; what it does not read is refused BAD_ARGUMENT. -/
def parsed {α : Type} (parse : List Byte → Option α) (f : α → State → Served) (payload : List Byte) (s : State) :
    Served :=
  match parse payload with
  | some x => f x s
  | none => refuse s .badArgument

/-! ### The text memory (5.1) -/

/-- What a cell that is not listed reads as: the space (log 5). -/
def blankCell : Byte := 0x20

/-- The stored code of a cell, by its address row x 16 + cell (R97). -/
def readCell : List Host.Cell → Nat → Byte
  | [], _ => blankCell
  | (a, b) :: m, k => if k = a then b else readCell m k

/-- Store a code, keeping the canonical form. -/
def writeCell : List Host.Cell → Nat → Byte → List Host.Cell
  | [], k, x => if x = blankCell then [] else [(k, x)]
  | (a, b) :: m, k, x =>
    if k < a then (if x = blankCell then (a, b) :: m else (k, x) :: (a, b) :: m)
    else if k = a then (if x = blankCell then m else (k, x) :: m)
    else (a, b) :: writeCell m k x

/-- The canonical form: addresses strictly rising, no entry equal to what an unlisted address reads as. -/
def Memory.wf : List Host.Cell → Bool
  | [] => true
  | [(_, b)] => b != blankCell
  | (a, b) :: (c, d) :: m => b != blankCell && decide (a < c) && Memory.wf ((c, d) :: m)

/-- Store codes one after another from an address on. -/
def writeCells : List Host.Cell → Nat → List Byte → List Host.Cell
  | m, _, [] => m
  | m, k, x :: xs => writeCells (writeCell m k x) (k + 1) xs

/-- Insert a row number into an ascending list without repeats. -/
def insertRow (r : Nat) : List Nat → List Nat
  | [] => [r]
  | x :: xs => if r < x then r :: x :: xs else if r = x then x :: xs else x :: insertRow r xs

/-- A row's check value no longer matches: it is FAILING (R85). -/
def TextStore.failRow (t : TextStore) (r : Nat) : TextStore := { t with failing := insertRow r t.failing }

/-- What a reader is given for a cell: the stored code, or a space where the row is FAILING (R85). -/
def TextStore.visible (t : TextStore) (address : Nat) : Byte :=
  if t.failing.contains (address / 16) then 0x20 else readCell t.cells address

/-- The 16 cells of a row as every reader sees them (R85, R93). -/
def TextStore.rowCells (t : TextStore) (r : Nat) : List Byte :=
  (List.range 16).map fun i => t.visible (r * 16 + i)

/-- A successful commit: "the new 16 cells and a check value matching them replace the row as one change" (R93). -/
def TextStore.replaceRow (t : TextStore) (r : Nat) (cells : List Byte) : TextStore :=
  { t with cells := writeCells t.cells (r * 16) cells, failing := t.failing.filter (· != r) }

/-- The text behind a reference, read row-major (R97), every row as it stands at the reading (R95). -/
def TextStore.read (t : TextStore) (r : TextRef) : List Byte :=
  (List.range r.len).map fun i => t.visible (r.row * 16 + i)

/-! ### Staging buffers (5.2) -/

def State.staging (s : State) : Ctrl → Staging
  | .p0 => s.store.staging0
  | .p1 => s.store.staging1

def State.setStaging (s : State) : Ctrl → Staging → State
  | .p0, b => { s with store := { s.store with staging0 := b } }
  | .p1, b => { s with store := { s.store with staging1 := b } }

/-- "Emptying marks all 16 cells not loaded and sets their codes to 0x20. It leaves the target row and the column as
they were" (R87). -/
def Staging.emptied (b : Staging) : Staging :=
  { b with cells := Vector.replicate 16 0x20, loaded := Vector.replicate 16 false }

/-! ### Paths between the blocks (logs 12, 13) -/

/-- Hand notifications to the Cue Scheduler, in order (R26). -/
def State.hand (s : State) (origin : Option Ctrl) (ns : List Notification) : State :=
  { s with cues := { s.cues with inbox := s.cues.inbox ++ ns.map fun n => .notice n origin } }

/-- Deliver a minute event to the four blocks that act on the board minute (R3). -/
def State.sendMinute (s : State) (n : Nat) : State :=
  { s with
    table := { s.table with inbox := s.table.inbox ++ [.minute n] }
    cues := { s.cues with minutes := s.cues.minutes ++ [n] }
    composer := { s.composer with inbox := s.composer.inbox ++ [.minute n] }
    clock := { s.clock with inbox := s.clock.inbox ++ [n] } }

/-- Begin a rollover: stage 1 is handed to the table, and what follows waits for stage 3 (R4). -/
def State.beginRollover (s : State) (rest : List Delivery) : State :=
  { s with
    table := { s.table with inbox := s.table.inbox ++ [.rebase] }
    time := { s.time with rollover := some .table, outbox := rest } }

/-- Carry out the Time Base's deliveries in order, up to a rollover, behind which the rest waits (R4, R14). -/
def deliver : List Delivery → State → State
  | [], s => { s with time := { s.time with outbox := [] } }
  | .rollover :: rest, s => s.beginRollover rest
  | .minute n :: rest, s => deliver rest (s.sendMinute n)
  | .event e :: rest, s => deliver rest (s.raiseRouted e)
  | .reply c :: rest, s => deliver rest (s.answer c.port ⟨.done, []⟩)

/-- Deliver now, or behind the deliveries that wait for a rollover in progress. -/
def State.post (s : State) (ds : List Delivery) : State :=
  match s.time.rollover with
  | none => deliver ds s
  | some _ => { s with time := { s.time with outbox := s.time.outbox ++ ds } }

/-- The rebase of one minute: "lowered by 1440 ... and a value that would fall below -1440 is held at -1440"
(R24, R101, R138). -/
def rebased (m : Int) : Int := max (m - 1440) (-1440)

end Sys2Proof.Machine
end

