-- ==== Sys2Proof/Machine/Authority.lean ====
section
/-! DEFINITION. The Update Authority Arbiter (chapter 4). -/

namespace Sys2Proof.Machine

/-- Empty a port's staging buffer, as DISCARD STAGING does (R78, R87). -/
def State.emptyStaging (s : State) (c : Ctrl) : State := s.setStaging c (s.staging c).emptied

/-- A port becomes the holder: the state item changes, and the holder silence timer starts for it (R72, R77). -/
def State.grant (s : State) (c : Ctrl) : State :=
  s.noted { s with arbiter := { s.arbiter with
    holder := some c, silence := .running (secondsLeft s.settings.holdSilence) } }

/-- The state becomes FREE and the holder silence timer stops (R74, R77). -/
def State.vacate (s : State) : State :=
  s.noted { s with arbiter := { s.arbiter with holder := none, silence := .stopped } }

/-- Remove the waiting port and stop the yield timer (R71). -/
def State.endWait (s : State) : State :=
  { s with arbiter := { s.arbiter with waiting := none, yield := .stopped } }

/-- A port becomes the waiting port: the yield timer starts with YIELD TIME, and YIELD_ASKED is raised to the holder
(R72). -/
def State.beginWait (s : State) (c holder : Ctrl) : State :=
  ({ s with arbiter := { s.arbiter with
      waiting := some c, yield := .running (secondsLeft s.settings.yieldTime) } } : State).raise
    holder.port (.yieldAsked c)

/-- Whether a port's command in service is a claim that waits for the arbiter: "a REQUEST AUTHORITY or a SEIZE AUTHORITY
that the arbiter would serve" (R73). -/
def State.claims (s : State) (c : Ctrl) : Bool :=
  match (s.port c.port).service with
  | .serving code payload .waiting =>
    payload.isEmpty && (code == codeRequestAuthority || (code == codeSeizeAuthority && s.settings.seizeEnable))
  | _ => false

/-- Take a port's waiting command in service. -/
def State.take (s : State) (p : Port) : State :=
  match (s.port p).service with
  | .serving code payload .waiting => s.setService p (.serving code payload .taken)
  | _ => s

/-- The control port the PRI strap names: open for P0, closed for P1 (11.5). -/
def Straps.winner (st : Straps) : Ctrl := if st.pri then .p1 else .p0

/-- A claim taken from FREE (R72, R73, R75): where the other port claims too, the port the PRI strap names is granted
and answered DONE, and the other waits and is answered PENDING; else the claimant is granted. -/
def claimFromFree (c : Ctrl) (s : State) : Served :=
  if s.claims c.other then
    let w := Straps.winner s.ident.straps
    let s := (((s.take c.other.port).grant w).beginWait w.other w)
    if w = c then ((s.answer c.other.port ⟨.pending, []⟩), some ⟨.done, []⟩)
    else ((s.answer c.other.port ⟨.done, []⟩), some ⟨.pending, []⟩)
  else done (s.grant c) []

/-- REQUEST AUTHORITY (R72). -/
def requestServed (c : Ctrl) (s : State) : Served :=
  match s.arbiter.holder with
  | none => claimFromFree c s
  | some h =>
    if h = c then done s []
    else if s.arbiter.waiting = some c then refuse s .pending
    else refuse (s.beginWait c h) .pending

def execRequestAuthority (c : Ctrl) (s : State) : Result :=
  serve c.port codeRequestAuthority (withoutPayload (requestServed c)) s

/-- SEIZE AUTHORITY while SEIZE ENABLE is YES (R75). -/
def seizeServed (c : Ctrl) (s : State) : Served :=
  match s.arbiter.holder with
  | none => claimFromFree c s
  | some h =>
    if h = c then done s []
    else done ((((s.endWait).emptyStaging h).grant c).raise h.port (.authorityLost c)) []

/-- SEIZE AUTHORITY: "While SEIZE ENABLE is NO it is refused BAD_COMMAND in every arbiter state" (R75, log 17). -/
def seizeChecked (c : Ctrl) (payload : List Byte) (s : State) : Served :=
  if s.settings.seizeEnable then withoutPayload (seizeServed c) payload s else refuse s .badCommand

def execSeizeAuthority (c : Ctrl) (s : State) : Result :=
  serve c.port codeSeizeAuthority (seizeChecked c) s

/-- RELEASE AUTHORITY (R74). -/
def releaseServed (c : Ctrl) (s : State) : Served :=
  if s.arbiter.holder = some c then
    match s.arbiter.waiting with
    | some w => done (((s.endWait.emptyStaging c).grant w).raise w.port .authorityGranted) []
    | none => done (s.emptyStaging c).vacate []
  else if s.arbiter.waiting = some c then done s.endWait []
  else done s []

def execReleaseAuthority (c : Ctrl) (s : State) : Result :=
  serve c.port codeReleaseAuthority (withoutPayload (releaseServed c)) s

/-- YIELD_TIMER_EXPIRY (R76): the wait lapses, with REQUEST_LAPSED to the former waiting port. -/
def execYieldTimerExpiry (s : State) : Result :=
  whenOperating s fun s =>
    match s.arbiter.yield, s.arbiter.waiting with
    | .running 0, some w => s.endWait.raise w.port .requestLapsed
    | _, _ => s

/-- The holder loses authority to its silence (R77). -/
def silenceExpired (h : Ctrl) (s : State) : State :=
  let s := (s.emptyStaging h).raise h.port .authorityExpired
  match s.arbiter.waiting with
  | some w => (s.endWait.grant w).raise w.port .authorityGranted
  | none => s.vacate

/-- HOLDER_SILENCE_EXPIRY (R77). -/
def execHolderSilenceExpiry (s : State) : Result :=
  whenOperating s fun s =>
    match s.arbiter.silence, s.arbiter.holder with
    | .running 0, some h => silenceExpired h s
    | _, _ => s

/-- "Whole seconds remaining, rounded up, while a port waits; 0 otherwise" (R81). -/
def Arbiter.yieldRemaining (a : Arbiter) : Nat :=
  match a.waiting, a.yield with
  | some _, .running left => wholeSeconds left
  | _, _ => 0

/-- The 5 bytes of READ AUTHORITY (R81, 10.8). -/
def authorityBytes (c : Ctrl) (s : State) : List Byte :=
  [authorityItem s.arbiter,
   (match s.arbiter.waiting with | some w => byte w.number | none => 0xFF),
   (if s.arbiter.holder = some c then 0 else if s.arbiter.waiting = some c then 1 else 2),
   byte s.arbiter.yieldRemaining,
   flag s.settings.seizeEnable]

def execReadAuthority (c : Ctrl) (s : State) : Result :=
  serve c.port codeReadAuthority (withoutPayload fun s => done s (authorityBytes c s)) s

end Sys2Proof.Machine
end

