-- ==== Sys2Proof/Machine/ClockOps.lean ====
section
/-! DEFINITION. Shared operations of the Clock Line Driver (chapter 9): line changes, retention writes, evaluation and
impulses. -/

namespace Sys2Proof.Machine

/-- A line's record replaced; a change of its state is offered to the watches (R158, R169). -/
def State.setLine (s : State) (l : Line) (r : LineRecord) : State :=
  s.noted { s with clock := { s.clock with lines := put s.clock.lines l r } }

/-- "Every write of a retention entry replaces the line's three items and the area's check value together" (R163): the
area is valid after it (R189). -/
def State.retain (s : State) (l : Line) (e : RetentionEntry) : State :=
  { s with retention := ⟨put s.retention.entries l e, true⟩ }

/-- A line's entry from its record, where it holds a shown minute. -/
def LineRecord.entry (r : LineRecord) (inFlight : Bool) : RetentionEntry :=
  ⟨r.shown.getD 0, r.polarity, inFlight⟩

def Polarity.other : Polarity → Polarity
  | .positive => .negative
  | .negative => .positive

/-- NO_TIME, IN_STEP, CATCHING or WAITING. -/
def LineState.evaluable : LineState → Bool
  | .noTime | .inStep | .catching | .waiting => true
  | .off | .unknown | .fault _ => false

/-- The target g = (DAY START + working minute) modulo 720 (R158). -/
def State.dialTarget (s : State) : Nat := (s.settings.dayStart + s.clock.working) % 720

/-- The difference d = (g − shown minute) modulo 720 (R158). -/
def dialDifference (g shown : Nat) : Nat := (((g : Int) - shown) % 720).toNat

/-- The state an evaluation gives, and whether an impulse is due (R158). -/
def dialCase (wait d : Nat) : LineState × Bool :=
  if d = 0 then (.inStep, false)
  else if d ≥ 720 - wait then (.waiting, false)
  else if d = 1 then (.inStep, true)
  else (.catching, true)

/-- An impulse start, as one change (R160): the retention entry with the in-flight flag set, impulse in flight, the
spacing timer, the drive. -/
def State.startImpulse (s : State) (l : Line) : State :=
  let r := s.clock.lines[l]
  let cfg := s.settings.lines[l]
  (s.retain l (r.entry true)).setLine l
    { r with impulse := some ⟨r.polarity, cfg.width⟩, spacing := .running (secondsLeft cfg.fast) }

/-- Whether the spacing timer lets an impulse start: STOPPED or RUN_OUT (R158). -/
def LatchTimer.allows : LatchTimer → Bool
  | .stopped | .runOut => true
  | .running _ => false

/-- An evaluation against the target of a line whose shown minute is `m`: its state, and its impulse where one is due
and the spacing timer lets it start (R158). -/
def State.settleLine (s : State) (l : Line) (m : Nat) : State :=
  let r := s.clock.lines[l]
  let c := dialCase s.settings.lines[l].wait (dialDifference s.dialTarget m)
  let s := s.setLine l { r with state := c.1 }
  if c.2 = true ∧ r.spacing.allows = true then s.startImpulse l else s

/-- An evaluation of a line (R158); it applies to an evaluable line with no impulse in flight. -/
def State.evaluateLine (s : State) (l : Line) : State :=
  let r := s.clock.lines[l]
  if r.state.evaluable = true ∧ r.impulse = none then
    if s.clock.clockSet then
      match r.shown with
      | none => s
      | some m => s.settleLine l m
    else s.setLine l { r with state := .noTime }
  else s

/-- A line becomes OFF (R165): off requested no, the spacing timer stopped, the fault kind removed. -/
def State.becomeOff (s : State) (l : Line) : State :=
  s.setLine l { s.clock.lines[l] with state := .off, offRequested := false, spacing := .stopped }

/-- LINE OFF on a line, and a write of enabled NO (R165, R168). -/
def State.turnOff (s : State) (l : Line) : State :=
  let r := s.clock.lines[l]
  if r.state = .off then s
  else if r.impulse.isSome then s.setLine l { r with offRequested := true }
  else s.becomeOff l

/-- All four lines, L0 to L3. -/
def allLines : List Line := [0, 1, 2, 3]

def Polarity.number : Polarity → Byte
  | .positive => 0
  | .negative => 1

/-- One line of READ LINES: 15 bytes (10.8); absent values have every bit set. -/
def lineStatusBytes (s : State) (l : Line) : List Byte :=
  let r := s.clock.lines[l]
  [r.state.number] ++ be16 (r.shown.getD 0xFFFF) ++ [r.polarity.number] ++
  [(match r.state with | .fault .openLine => 0 | .fault .short => 1 | _ => 0xFF : Byte)] ++
  [byte ((if r.impulse.isSome then 1 else 0) + (if r.offRequested then 2 else 0))] ++
  (match s.clock.clockSet, r.shown with
   | true, some m => be16 s.dialTarget ++ be16 (dialDifference s.dialTarget m)
   | _, _ => [0xFF, 0xFF, 0xFF, 0xFF]) ++
  [flag s.settings.lines[l].enabled] ++ be16 s.settings.lines[l].width ++
  [byte s.settings.lines[l].fast, byte s.settings.lines[l].wait]

end Sys2Proof.Machine
end

