-- ==== Sys2Proof/Machine/Clocks.lean ====
section
/-! DEFINITION. The Clock Line Driver's steps (chapter 9): minute events, impulses, faults and the line commands. -/

namespace Sys2Proof.Machine

/-- CLOCK_MINUTE_EVENT (R157): the working minute and the clock state, then each evaluable line with no impulse in
flight. DESIGN CHOICE (log 41), unsafe: the lines are evaluated in the order L0 to L3, for the spec gives none. -/
def execClockMinuteEvent (s : State) : Result :=
  whenOperating s fun s =>
    match s.clock.inbox with
    | n :: rest =>
      allLines.foldl State.evaluateLine
        { s with clock := { s.clock with working := n, clockSet := true, inbox := rest } }
    | [] => s

/-- A line with its impulse complete (R161): the shown minute advances, the polarity changes, none in flight. -/
def LineRecord.completed (r : LineRecord) : LineRecord :=
  { r with shown := r.shown.map fun m => (m + 1) % 720, polarity := r.polarity.other, impulse := none }

/-- IMPULSE_COMPLETION (R161); then the line goes OFF where that was requested, and is evaluated otherwise. -/
def execImpulseCompletion (l : Line) (s : State) : Result :=
  whenOperating s fun s =>
    let r := s.clock.lines[l]
    if r.impulse.isSome then
      let s := (s.retain l (r.completed.entry false)).setLine l r.completed
      if r.offRequested then s.becomeOff l else s.evaluateLine l
    else s

/-- SPACING_TIMER_EXPIRY: RUN_OUT, then an evaluation where the line is evaluable (R159). -/
def execSpacingTimerExpiry (l : Line) (s : State) : Result :=
  whenOperating s fun s =>
    if s.clock.lines[l].spacing = .running 0 then
      (s.setLine l { s.clock.lines[l] with spacing := .runOut }).evaluateLine l
    else s

/-- LINE_FAULT_REPORT, during an impulse (R162). -/
def execLineFaultReport (l : Line) (kind : FaultKind) (s : State) : Result :=
  whenOperating s fun s =>
    let r := s.clock.lines[l]
    if r.impulse.isSome then
      let ended := { r with impulse := none, spacing := .stopped }
      let s := s.retain l (r.entry false)
      let s :=
        if r.offRequested then s.setLine l { ended with state := .off, offRequested := false }
        else s.setLine l { ended with state := .fault kind }
      s.raiseRouted (.clockLineFault l kind)
    else s

/-- SET DIAL SHOWN past its payload check (R164). -/
def dialServed (q : Line × Nat × Polarity) (s : State) : Served :=
  let l := q.1
  let r := s.clock.lines[l]
  if r.impulse.isSome then refuse s .busy
  else if r.shown.isSome ∧ q.2.2 ≠ r.polarity then refuse s .wrongState
  else
    let r := { r with shown := some q.2.1, polarity := q.2.2 }
    let s := s.retain l (r.entry false)
    match r.state with
    | .unknown => done ((s.setLine l { r with state := .noTime }).evaluateLine l) []
    | .noTime | .inStep | .catching | .waiting => done ((s.setLine l r).evaluateLine l) []
    | .off | .fault _ => done (s.setLine l r) []

def execSetDialShown (c : Ctrl) (s : State) : Result :=
  serve c.port codeSetDialShown (authorised c (parsed parseDial dialServed)) s

/-- LINE OFF is "taken in every state and replies DONE" (R165). -/
def execLineOff (c : Ctrl) (s : State) : Result :=
  serve c.port codeLineOff (authorised c (parsed parseLine fun l s => done (s.turnOff l) [])) s

/-- LINE ON past its payload check (R166). -/
def lineOnServed (l : Line) (s : State) : Served :=
  let r := s.clock.lines[l]
  if r.state = .off ∧ s.settings.lines[l].enabled then
    if r.shown.isSome then done ((s.setLine l { r with state := .noTime }).evaluateLine l) []
    else done (s.setLine l { r with state := .unknown }) []
  else refuse s .wrongState

def execLineOn (c : Ctrl) (s : State) : Result :=
  serve c.port codeLineOn (authorised c (parsed parseLine lineOnServed)) s

/-- CLEAR LINE FAULT past its payload check (R167). -/
def clearFaultServed (l : Line) (s : State) : Served :=
  match s.clock.lines[l].state with
  | .fault _ => done ((s.setLine l { s.clock.lines[l] with state := .noTime }).evaluateLine l) []
  | .off | .unknown | .noTime | .inStep | .catching | .waiting => refuse s .wrongState

def execClearLineFault (c : Ctrl) (s : State) : Result :=
  serve c.port codeClearLineFault (authorised c (parsed parseLine clearFaultServed)) s

/-- The 63 bytes of READ LINES (R169). -/
def linesBytes (s : State) : List Byte :=
  be16 s.clock.working ++ [flag s.clock.clockSet] ++ allLines.flatMap (lineStatusBytes s)

def execReadLines (c : Ctrl) (s : State) : Result :=
  serve c.port codeReadLines (withoutPayload fun s => done s (linesBytes s)) s

end Sys2Proof.Machine
end

