-- ==== Sys2Proof/Machine/Timing.lean ====
section
/-! DEFINITION. Departure timing (chapter 3): stored times, the evaluation of one record, the delay announcement and
the display values. Nothing here is state: all of it is computed from a record, a working minute and the items. -/

namespace Sys2Proof.Machine

/-! ### Derived minutes -/

/-- E: "The expected minute if present, otherwise s" (R56). -/
def Record.effective (r : Record) : Int := r.expected.getD r.sched

/-- D = E - s (R56). -/
def Record.delay (r : Record) : Int := r.effective - r.sched

/-- The first part of the sort key: s for CANCELLED, else E (R23). -/
def Record.sortMinute (r : Record) : Int :=
  match r.state with
  | .cancelled _ => r.sched
  | .waiting | .called | .closing | .gone _ => r.effective

/-- A record in WAITING, CALLED or CLOSING. -/
def RecordState.live : RecordState → Bool
  | .waiting | .called | .closing => true
  | .gone _ | .cancelled _ => false

/-- The bit of a kind in an announce mask (10.8); a NOTICE has none. -/
def CueKind.maskBit : CueKind → Option Nat
  | .call => some 0
  | .closing => some 1
  | .platformChange => some 2
  | .delay => some 3
  | .cancel => some 4
  | .notice => none

/-- Whether a kind is in a mask. -/
def inMask (m : BitVec 5) (k : CueKind) : Bool :=
  match k.maskBit with
  | some i => m.getLsbD i
  | none => false

/-- The stored-time stage (R55): the expected minute stored, and the clamped flag. -/
def storedTime (sched : Int) : Option Int → Option Int × Bool
  | none => (none, false)
  | some x =>
    if x < sched then (some sched, true)
    else if sched + 719 < x then (some (sched + 719), true)
    else (some x, false)

/-- The values an issue carries (R25), from the record as it stands. -/
def Record.issue (r : Record) (slot : Slot) (kind : CueKind) (previous : Option Nat) (working : Int) : Issue where
  kind := kind
  slot := slot
  code := r.code
  platform := r.platform
  previous := previous
  effective := r.effective
  delay := r.delay
  destination := r.destination
  remark := r.remark
  issued := working

/-- The values a refresh carries (R25). -/
def Record.refresh (r : Record) (slot : Slot) : Refresh where
  slot := slot
  platform := r.platform
  effective := r.effective
  delay := r.delay
  remark := r.remark

/-! ### The evaluation of one record (3.3) -/

/-- What an evaluation gives: the record after it (absent where its slot is freed), the kinds withdrawn, whether
"record ended" is handed, the kind issued, and whether the state changed or the slot is freed (R31). -/
structure Evaluation where
  record : Option Record
  withdraw : List CueKind
  ended : Option Ending
  issue : Option CueKind
  changed : Bool
deriving DecidableEq, Repr

/-- "An evaluation that changes nothing hands nothing" (R57). -/
def Evaluation.keep (r : Record) : Evaluation := ⟨some r, [], none, none, false⟩

/-- Flash expiry (R58). -/
def flashExpiry (cfg : Settings) (n : Int) (r : Record) : Record :=
  match r.previous with
  | some (_, change) => if n ≥ change + cfg.changeFlash then { r with previous := none } else r
  | none => r

/-- Case c: GONE with gone minute n; CALL and CLOSING are withdrawn and "record ended" is handed (R62). -/
def moveToGone (n : Int) (r : Record) : Evaluation :=
  ⟨some { r with state := .gone n }, [.call, .closing], some .gone, none, true⟩

/-- Case d: a forward move to CLOSING withdraws CALL and fires the CLOSING trigger where n ≤ E (R62, R63). -/
def moveToClosing (n : Int) (r : Record) : Evaluation :=
  if r.state = .closing then .keep r
  else if inMask r.mask .closing ∧ r.closingIssued = false ∧ n ≤ r.effective then
    ⟨some { r with state := .closing, closingIssued := true }, [.call], none, some .closing, true⟩
  else ⟨some { r with state := .closing }, [.call], none, none, true⟩

/-- Case e: forward from WAITING with the CALL trigger (R63), or backward from CLOSING, which clears closing-issued,
withdraws CLOSING and fires nothing (R61). -/
def moveToCalled (r : Record) : Evaluation :=
  match r.state with
  | .closing => ⟨some { r with state := .called, closingIssued := false }, [.closing], none, none, true⟩
  | .waiting =>
    if inMask r.mask .call ∧ r.callIssued = false then
      ⟨some { r with state := .called, callIssued := true }, [], none, some .call, true⟩
    else ⟨some { r with state := .called }, [], none, none, true⟩
  | .called | .gone _ | .cancelled _ => .keep r

/-- Case f: backward to WAITING clears both flags and withdraws CALL and CLOSING (R61). -/
def moveToWaiting (r : Record) : Evaluation :=
  if r.state = .waiting then .keep r
  else ⟨some { r with state := .waiting, callIssued := false, closingIssued := false }, [.call, .closing], none, none,
    true⟩

/-- The lifecycle and its consequences (R59 to R63): the first case whose condition holds. -/
def lifecycle (cfg : Settings) (n : Int) (r : Record) : Evaluation :=
  match r.state with
  | .cancelled c =>
    if n ≥ max r.sched c + cfg.cancelHold then ⟨none, [], none, none, true⟩ else .keep r
  | .gone g => if n ≥ g + cfg.goneHold then ⟨none, [], none, none, true⟩ else .keep r
  | .waiting | .called | .closing =>
    if n ≥ r.effective + cfg.departGrace then moveToGone n r
    else if r.platform.isSome ∧ n ≥ r.effective - cfg.closeLead then moveToClosing n r
    else if r.platform.isSome ∧ n ≥ r.effective - cfg.callLead then moveToCalled r
    else moveToWaiting r

/-- The departure timing evaluation (R57): flash expiry, then, in TIMED mode, the lifecycle. -/
def evaluate (cfg : Settings) (timed : Bool) (n : Int) (r : Record) : Evaluation :=
  if timed then lifecycle cfg n (flashExpiry cfg n r) else .keep (flashExpiry cfg n r)

/-! ### The delay announcement (3.4) -/

/-- Whether a change of E by command is announced (R65). -/
def announcesDelay (cfg : Settings) (r : Record) : Bool :=
  r.state.live && inMask r.mask .delay && decide (r.delay ≥ cfg.delayCueThreshold) &&
    decide ((r.delay - r.lastDelay.getD 0).natAbs ≥ cfg.delayCueStep)

/-- The delay announcement (R65): the record with its last announced delay, and the DELAY issue where one is handed. -/
def delayAnnouncement (cfg : Settings) (working : Int) (slot : Slot) (r : Record) : Record × List Issue :=
  if announcesDelay cfg r then
    ({ r with lastDelay := some r.delay }, [r.issue slot .delay none working])
  else (r, [])

/-! ### Values handed to the composer (3.6) -/

/-- The time text (R68). -/
def timeText (cfg : Settings) (r : Record) : List Byte := civilText cfg.dayStart r.sched

/-- The countdown text against the table's working minute; absent while UNTIMED (R68). -/
def countdownText (cfg : Settings) (timed : Bool) (n : Int) (r : Record) : Option (List Byte) :=
  if timed then
    let c := r.effective - n
    if c ≤ 0 then some [0x44, 0x75, 0x65]
    else if c ≤ 99 then some (decimal c.toNat ++ [0x20, 0x6D])
    else some (civilText cfg.dayStart r.effective)
  else none

/-- The expected text: "Exp " followed by the civil time of E, present when D ≥ ON TIME TOLERANCE (R68). -/
def expectedText (cfg : Settings) (r : Record) : Option (List Byte) :=
  if r.delay ≥ cfg.onTimeTolerance then
    some ([0x45, 0x78, 0x70, 0x20] ++ civilText cfg.dayStart r.effective)
  else none

/-- Whether the expected text is present (R110). -/
def showsExpected (cfg : Settings) (r : Record) : Bool := (expectedText cfg r).isSome

end Sys2Proof.Machine
end

