-- ==== Sys2Proof/Machine/TableOps.lean ====
section
/-! DEFINITION. Shared operations of the Departure Table (chapter 2): the list and its order, freeing a slot, the
conflict check, and the second phase of a command that changes one record (R33). -/

namespace Sys2Proof.Machine

def allSlots : List Slot := List.finRange 96

/-- The record of a code, by its slot: "Codes match character for character and length for length" (R34). -/
def Table.findCode (t : Table) (code : List Byte) : Option Slot :=
  allSlots.find? fun i => t.slots[i].any fun r => r.code == code

/-- The lowest-numbered free slot (R21). -/
def Table.lowestFree (t : Table) : Option Slot := allSlots.find? fun i => t.slots[i].isNone

/-- The sort key of an occupied slot: sort minute, scheduled minute, slot number (R23). -/
def Table.keyLt (t : Table) (i j : Slot) : Bool :=
  match t.slots[i], t.slots[j] with
  | some a, some b =>
    decide (a.sortMinute < b.sortMinute) ||
      (decide (a.sortMinute = b.sortMinute) &&
        (decide (a.sched < b.sched) || (decide (a.sched = b.sched) && decide (i < j))))
  | _, _ => decide (i < j)

/-- Insert a slot into the list at the position its key demands (R23). -/
def Table.insertOrdered (t : Table) (i : Slot) : List Slot → List Slot
  | [] => [i]
  | j :: js => if t.keyLt i j then i :: j :: js else j :: t.insertOrdered i js

/-- Hold a record in a slot, and move the slot to the place its key demands "in the same change that alters the key"
(R23). -/
def Table.place (t : Table) (i : Slot) (r : Record) : Table :=
  let u := { t with slots := put t.slots i (some r) }
  { u with order := u.insertOrdered i (t.order.filter (· != i)) }

/-- Hold a record in a slot whose key does not change. -/
def Table.hold (t : Table) (i : Slot) (r : Record) : Table := { t with slots := put t.slots i (some r) }

/-- Whether a slot belongs to a pair of a pair set. -/
def inPairs (pairs : List (Slot × Slot)) (i : Slot) : Bool := pairs.any fun p => p.1 == i || p.2 == i

/-- Free one slot (R22): the record is discarded, the slot leaves the list and its pairs leave the set; the flag of
each former partner is recomputed. -/
def Table.free (t : Table) (i : Slot) : Table :=
  let kept := t.pairs.filter fun p => !(p.1 == i || p.2 == i)
  { t with
    slots := Vector.ofFn fun j : Fin 96 =>
      if j = i then none
      else if t.pairs.contains (i, j) || t.pairs.contains (j, i) then
        t.slots[j].map fun r => { r with conflict := inPairs kept j }
      else t.slots[j]
    order := t.order.filter (· != i)
    pairs := kept }

/-! ### Platform conflicts (2.4) -/

/-- A record in CALLED or CLOSING. -/
def RecordState.atPlatform : RecordState → Bool
  | .called | .closing => true
  | .waiting | .gone _ | .cancelled _ => false

/-- Two records conflict "when both are in CALLED or CLOSING, both have the same platform, and their effective minutes
differ by less than CONFLICT WINDOW minutes" (R27). -/
def conflicting (window : Nat) (a b : Record) : Bool :=
  a.state.atPlatform && b.state.atPlatform && a.platform.isSome && a.platform == b.platform &&
    decide ((a.effective - b.effective).natAbs < window)

def Table.conflictPair (t : Table) (window : Nat) (i j : Slot) : Bool :=
  match t.slots[i], t.slots[j] with
  | some a, some b => conflicting window a b
  | _, _ => false

/-- The conflicting pairs among all occupied records, "in ascending order of the lower slot and then of the higher
slot" (R27, R28). -/
def Table.conflicts (t : Table) (window : Nat) : List (Slot × Slot) :=
  let occupied := allSlots.filter fun i => t.slots[i].any fun r => r.state.atPlatform
  occupied.flatMap fun i =>
    (occupied.filter fun j => decide (i < j) && t.conflictPair window i j).map fun j => (i, j)

/-- PLATFORM_CONFLICT for a pair, with the platform and the two slots, lower slot first (R28). -/
def Table.conflictEvent (t : Table) (p : Slot × Slot) : Event :=
  .platformConflict ((t.slots[p.1].bind fun r => r.platform).getD 0) p.1 p.2

/-- The conflict check (R27): the pair set becomes the set of conflicting pairs, and every flag follows it. -/
def Table.checked (t : Table) (window : Nat) : Table :=
  let pairs := t.conflicts window
  { t with
    slots := Vector.ofFn fun j : Fin 96 => t.slots[j].map fun r => { r with conflict := inPairs pairs j }
    pairs := pairs }

/-- The events of a conflict check: one for each pair it adds (R28). -/
def Table.conflictEvents (t : Table) (window : Nat) : List Event :=
  ((t.conflicts window).filter fun p => !t.pairs.contains p).map t.conflictEvent

/-- Run the conflict check and raise its events (R27, R28). -/
def State.conflictCheck (s : State) : State :=
  let w := s.settings.conflictWindow
  { s with table := s.table.checked w }.raiseAll (s.table.conflictEvents w)

/-! ### Commands that change one record (2.6) -/

/-- A withdrawal, where it names any kind. -/
def withdrawal (slot : Slot) (kinds : List CueKind) : List Notification :=
  if kinds = [] then [] else [.withdraw slot kinds]

/-- What a command does to a record before its evaluation: the record with its fields changed, what is handed for
that, and whether the command evaluates the record (R66). -/
structure Change where
  record : Record
  withdraw : List CueKind
  refresh : Bool
  ended : Option Ending
  issues : List Issue
  evaluates : Bool
deriving DecidableEq, Repr

/-- The evaluation a change calls for, at the working minute. -/
def Change.evaluation (ch : Change) (s : State) : Evaluation :=
  if ch.evaluates then evaluate s.settings s.table.timed s.table.working ch.record else .keep ch.record

/-- The notifications of one record's change: "withdrawals first, then refresh, then record ended, then issues, then
slot freed" (R26). -/
def Change.notifications (ch : Change) (s : State) (slot : Slot) : List Notification :=
  let ev := ch.evaluation s
  let r := ev.record.getD ch.record
  withdrawal slot ch.withdraw ++ withdrawal slot ev.withdraw ++
    (if ch.refresh then [.refresh (r.refresh slot)] else []) ++
    (ch.ended.toList ++ ev.ended.toList).map (fun e => .ended slot e) ++
    (ch.issues ++ ev.issue.toList.map fun k => r.issue slot k none s.table.working).map (fun i => .issue i) ++
    (if ev.record.isNone then [.freed slot] else [])

/-- The table with the changed and evaluated record in its place. -/
def Change.applied (ch : Change) (s : State) (slot : Slot) : Table :=
  match (ch.evaluation s).record with
  | some r => (s.table.place slot ch.record).place slot r
  | none => (s.table.place slot ch.record).free slot

/-- The second phase of a command that has passed every check (R33): fields, list, evaluation, conflict check,
notifications, events, reply DONE. -/
def Change.carryOut (ch : Change) (c : Ctrl) (slot : Slot) (s : State) : Served :=
  let w := s.settings.conflictWindow
  let t := ch.applied s slot
  done ((({ s with table := t.checked w }).hand (some c) (ch.notifications s slot)).raiseAll (t.conflictEvents w)) []

/-- The record check: "a command naming a record that is not in the table is refused NO_RECORD" (R33, R34). -/
def withRecord (s : State) (code : List Byte) (f : Slot → Record → Served) : Served :=
  match s.table.findCode code with
  | none => refuse s .noRecord
  | some i =>
    match s.table.slots[i] with
    | none => refuse s .noRecord
    | some r => f i r

/-! ### Minute events (2.5) -/

/-- Evaluate one slot at a minute event: the table, the notifications so far, and the slots whose state changed or
that were freed (R30, R31). -/
def evaluateSlot (cfg : Settings) (n : Int) (acc : Table × List Notification × List Slot) (i : Slot) :
    Table × List Notification × List Slot :=
  match acc.1.slots[i] with
  | none => acc
  | some r =>
    let ev := evaluate cfg true n r
    let after := ev.record.getD r
    (match ev.record with | some r' => acc.1.hold i r' | none => acc.1.free i,
     acc.2.1 ++ (withdrawal i ev.withdraw ++ ev.ended.toList.map (fun e => .ended i e) ++
       ev.issue.toList.map (fun k => .issue (after.issue i k none n)) ++
       (if ev.record.isNone then [.freed i] else [])),
     if ev.changed then acc.2.2 ++ [i] else acc.2.2)

/-- The lowest slot of a list (R31). -/
def lowestSlot : List Slot → Option Slot
  | [] => none
  | i :: is => some (is.foldl min i)

end Sys2Proof.Machine
end

