-- ==== Sys2Proof/Machine/ComposeOps.lean ====
section
/-! DEFINITION. Composing rows (chapter 6): display mapping, the LIST, CLOCK and NOTICE rows, the notice sequence, and
the composer's part of a cycle start. -/

namespace Sys2Proof.Machine

/-! ### Texts (R107) -/

/-- Display mapping: a code in 0x20 to 0x7E or 0xA0 to 0xFE stands, any other is a space (R107). -/
def displayed (b : Byte) : Byte :=
  if (0x20 ≤ b.toNat ∧ b.toNat ≤ 0x7E) ∨ (0xA0 ≤ b.toNat ∧ b.toNat ≤ 0xFE) then b else 0x20

/-- A text less the spaces at its end. -/
def trimmed (bs : List Byte) : List Byte := (bs.reverse.dropWhile (· == 0x20)).reverse

/-- The shown characters of a reference, mapped and without the spaces at the end: their number is the shown length
(R107). -/
def TextStore.shown (t : TextStore) (r : TextRef) : List Byte := trimmed ((t.read r).map displayed)

def spaces (n : Nat) : List Byte := List.replicate n 0x20

/-- A text right-aligned in a field. -/
def rightAligned (n : Nat) (bs : List Byte) : List Byte := spaces (n - bs.length) ++ bs

/-- A blank row: all spaces, STEADY. -/
def blankImage (w : Nat) : LineImage := ⟨spaces w, List.replicate w false⟩

/-- A row of one text, STEADY in every cell. -/
def steadyImage (w : Nat) (bs : List Byte) : LineImage := ⟨padTo w bs, List.replicate w false⟩

/-! ### LIST rows (R108 to R111) -/

/-- The time field: 5 cells (R109). -/
def timeField (s : State) (mode : TimeMode) (r : Record) : List Byte :=
  match mode with
  | .clocktime => timeText s.settings r
  | .countdown =>
    if r.state.live then
      match countdownText s.settings s.table.timed s.table.working r with
      | some t => rightAligned 5 t
      | none => timeText s.settings r
    else timeText s.settings r

/-- The destination field of `n` cells: the via is shown beside the destination only where both fit (R109). -/
def destinationField (t : TextStore) (n : Nat) (r : Record) : List Byte :=
  let dest := t.shown r.destination
  let via := (r.via.map t.shown).getD []
  if via.length > 0 ∧ dest.length + 1 + via.length ≤ n then padTo n (dest ++ [0x20] ++ via) else padTo n dest

/-- The platform field: right-aligned in 2 cells, "--" when absent (R109). -/
def platformField (r : Record) : List Byte :=
  match r.platform with
  | some p => rightAligned 2 (decimal p)
  | none => [0x2D, 0x2D]

/-- The remark shown: the first of R110's list that applies. -/
def shownRemark (cfg : Settings) (r : Record) : Remark :=
  match r.state with
  | .cancelled _ => .cancelled
  | .gone _ => .departed
  | .closing => .closing
  | .waiting | .called =>
    if r.previous.isSome then .platformChanged
    else if showsExpected cfg r then .expected
    else if r.state = .called then .boarding
    else .onTime

/-- The REMARK TEXT item of a remark (R110). -/
def remarkText (cfg : Settings) : Remark → TextRef
  | .cancelled => cfg.remarks.cancelled
  | .departed => cfg.remarks.departed
  | .closing => cfg.remarks.closing
  | .platformChanged => cfg.remarks.platformChanged
  | .expected => cfg.remarks.expected
  | .boarding => cfg.remarks.boarding
  | .onTime => cfg.remarks.onTime

/-- The remark field: 10 cells; EXPECTED fills 5 with its text and 5 with the civil time of E (R110). -/
def remarkField (s : State) (r : Record) : List Byte :=
  let k := shownRemark s.settings r
  let text := s.store.shown (remarkText s.settings k)
  if k = .expected then padTo 5 text ++ civilText s.settings.dayStart r.effective else padTo 10 text

/-- The attributes of a LIST row of width w showing a record (R111): `true` is FLASH. -/
def listFlash (w : Nat) (r : Record) : List Bool :=
  if r.state = .closing then List.replicate w true
  else if r.previous.isSome then
    List.replicate (w - 13) false ++ [true, true] ++ List.replicate 11 false
  else List.replicate w false

/-- A LIST row of width w showing a record, in the seven fields of R109. -/
def listImage (s : State) (plan : ChainPlan) (r : Record) : LineImage :=
  ⟨timeField s plan.timeMode r ++ [0x20] ++ destinationField s.store (plan.width - 20) r ++ [0x20] ++
     platformField r ++ [0x20] ++ remarkField s r,
   listFlash plan.width r⟩

/-- The page-list position, counted from 1, that the i-th LIST row shows (R105). -/
def ChainView.listPosition (v : ChainView) (i : Nat) : Nat :=
  let n := v.plan.roles.count .list
  let k := v.plan.pinned
  if i ≤ k then i else k + v.page * (n - k) + (i - k)

/-- The record a LIST row shows: that of its page-list entry, where its slot still holds the code recorded (R108). -/
def ChainView.listRecord (v : ChainView) (t : Table) (i : Nat) : Option Record :=
  match v.pages[v.listPosition i - 1]? with
  | none => none
  | some (slot, code) => t.slots[slot].filter fun r => r.code == code

/-- The image of the i-th LIST row. -/
def listRow (s : State) (v : ChainView) (i : Nat) : LineImage :=
  match v.listRecord s.table i with
  | some r => listImage s v.plan r
  | none => blankImage v.plan.width

/-! ### CLOCK rows (R112) -/

def clockImage (s : State) (w : Nat) : LineImage :=
  let time := if s.composer.clockSet then civilText s.settings.dayStart s.composer.working
    else [0x2D, 0x2D, 0x3A, 0x2D, 0x2D]
  steadyImage w (spaces ((w - 5) / 2) ++ time)

/-! ### Notices (R116 to R119) -/

/-- Whether a record is eligible for a chain under its cycle plan (R102). -/
def eligible (plan : ChainPlan) (r : Record) : Bool :=
  plan.sectorMask.getLsbD r.sector.val && (plan.platformFilter == 0 || r.platform == some plan.platformFilter)

/-- Whether a record has an automatic delay notice, its eligibility apart (R116). -/
def noticeable (cfg : Settings) (r : Record) : Bool :=
  (match r.state with
   | .waiting | .called => true
   | .closing | .gone _ | .cancelled _ => false) &&
    decide (r.delay ≥ cfg.delayCueThreshold) && r.remark.isSome

/-- The positions of the notice list, "in ascending priority (0 first) and within one priority in ascending position"
(R116). -/
def Composer.noticeOrder (c : Composer) : List NoticeItem :=
  (List.range 4).flatMap fun prio =>
    ((List.finRange 8).filter fun p => c.notices[p].any fun n => n.priority == prio).map NoticeItem.position

/-- The automatic delay notices of a chain, in departure-list order (R116). -/
def automaticNotices (s : State) (plan : ChainPlan) : List NoticeItem :=
  if s.settings.autoDelayNotices then
    s.table.order.filterMap fun i =>
      (s.table.slots[i].filter fun r => eligible plan r && noticeable s.settings r).map fun r =>
        NoticeItem.automatic i r.code
  else []

/-- The notice sequence of a chain, as things stand (R116). -/
def noticeSequence (s : State) (plan : ChainPlan) : List NoticeItem :=
  s.composer.noticeOrder ++ automaticNotices s plan

/-- The text of an automatic delay notice (R117). -/
def automaticText (s : State) (r : Record) : List Byte :=
  timeText s.settings r ++ [0x20] ++ s.store.shown r.destination ++ [0x20] ++ (r.remark.map s.store.shown).getD []

/-- The text of a notice, read at each composition: its length is the shown length of R117, for an automatic notice 7
plus the two shown lengths, with the spaces at its end where the remark shows nothing (R117, log 32). -/
def noticeText (s : State) : NoticeItem → List Byte
  | .position p =>
    match s.composer.notices[p] with
    | some n => s.store.shown n.ref
    | none => []
  | .automatic slot _ =>
    match s.table.slots[slot] with
    | some r => automaticText s r
    | none => []

/-- The part count of a text on a chain of width w: rounded up, and 1 for an empty text (R117). -/
def partCount (w : Nat) (text : List Byte) : Nat := max 1 ((text.length + w - 1) / w)

/-- Part j of a text: the characters at j × w + 1 to (j + 1) × w, padded with spaces (R117). -/
def noticePart (w j : Nat) (text : List Byte) : List Byte := padTo w (text.drop (j * w))

/-- The part timer started with NOTICE PERIOD as it stands. -/
def partPeriod (s : State) : Timer := .running (secondsLeft s.settings.noticePeriod)

/-- A chain's view with its cursor at a part of an item, and its part timer restarted. -/
def ChainView.cursorAt (v : ChainView) (period : Timer) (item : NoticeItem) (part : Nat) : ChainView :=
  { v with cursor := some ⟨item, part⟩, partTimer := period, partOwed := false }

/-- A chain's view without a cursor, its part timer STOPPED. -/
def ChainView.withoutCursor (v : ChainView) : ChainView :=
  { v with cursor := none, partTimer := .stopped, partOwed := false }

/-- A NOTICE row: the cursor and the part timer after it, and its image (R118). -/
def noticeRow (s : State) (v : ChainView) : ChainView × LineImage :=
  let w := v.plan.width
  match noticeSequence s v.plan with
  | [] => (v.withoutCursor, blankImage w)
  | first :: rest =>
    match v.cursor with
    | some cur =>
      if cur.item ∈ first :: rest then
        let text := noticeText s cur.item
        (v, steadyImage w (noticePart w (min cur.part (partCount w text - 1)) text))
      else
        (v.cursorAt (partPeriod s) first 0, steadyImage w (noticePart w 0 (noticeText s first)))
    | none => (v.cursorAt (partPeriod s) first 0, steadyImage w (noticePart w 0 (noticeText s first)))

/-- The item after an item in a sequence, or the first where it is the last (R119). -/
def itemAfter (seq : List NoticeItem) (x first : NoticeItem) : NoticeItem :=
  ((seq.dropWhile (· != x)).drop 1).headD first

/-- A part timer expiry moves the cursor (R119). -/
def movedCursor (s : State) (v : ChainView) : ChainView :=
  match noticeSequence s v.plan with
  | [] => v.withoutCursor
  | first :: rest =>
    match v.cursor with
    | some cur =>
      if cur.item ∈ first :: rest then
        if cur.part + 1 < partCount v.plan.width (noticeText s cur.item) then
          v.cursorAt (partPeriod s) cur.item (cur.part + 1)
        else v.cursorAt (partPeriod s) (itemAfter (first :: rest) cur.item first) 0
      else v.cursorAt (partPeriod s) first 0
    | none => v.cursorAt (partPeriod s) first 0

/-! ### One row -/

/-- The image of a row of a chain's cycle, with the chain's view after it (R103, R105, R108 to R112, R118). Row `k` is
counted from 1. -/
def composeRow (s : State) (v : ChainView) (k : Nat) : ChainView × LineImage :=
  if !v.plan.enabled then (v, blankImage v.plan.width)
  else
    match v.plan.roles.getD (k - 1) .blank with
    | .list => (v, listRow s v ((v.plan.roles.take k).count .list))
    | .notice => noticeRow s v
    | .clock => (v, clockImage s v.plan.width)
    | .blank => (v, blankImage v.plan.width)

/-! ### Views, links and passing rows -/

def State.setView (s : State) (k : Chain) (v : ChainView) : State :=
  { s with composer := { s.composer with views := put s.composer.views k v } }

def State.setLink (s : State) (k : Chain) (l : Link) : State := { s with links := put s.links k l }

/-- The composition in flight, marked passed where it is of this chain and `which` holds of its row. -/
def Composer.markPassed (c : Composer) (k : Chain) (which : Nat → Bool) : Composer :=
  { c with engine := c.engine.map fun e => if e.chain = k ∧ which e.row then { e with passed := true } else e }

/-- The link has passed row `k` of a chain by a REPEAT or a blank frame (R106): the image in flight for it will be
discarded, and the next row moves past it. -/
def State.passRow (s : State) (c : Chain) (k : Nat) : State :=
  let v := s.composer.views[c]
  let s := { s with composer := s.composer.markPassed c (· == k) }
  if v.nextRow ≤ k then s.setView c { v with nextRow := k + 1 } else s

/-! ### Cycle start (R103, R104, R124) -/

/-- The page list: the eligible slots of the departure list with their codes, in list order (R103). -/
def snapshot (t : Table) (plan : ChainPlan) : List (Slot × List Byte) :=
  t.order.filterMap fun i => (t.slots[i].filter (eligible plan)).map fun r => (i, r.code)

/-- A page timer started with the page period of the cycle plan. -/
def pagePeriod (plan : ChainPlan) : LatchTimer := .running (secondsLeft plan.pagePeriod)

/-- The page index and page timer brought up to date, by the first case of R104 that holds. -/
def ChainView.updatePage (v : ChainView) : ChainView :=
  let n := v.plan.roles.count .list
  let k := v.plan.pinned
  let m := n - k
  let l := v.pages.length
  if m = 0 ∨ l ≤ n then { v with page := 0, pageTimer := .stopped }
  else
    match v.pageTimer with
    | .stopped => { v with page := 0, pageTimer := pagePeriod v.plan }
    | .runOut =>
      { v with page := if k + (v.page + 1) * m + 1 > l then 0 else v.page + 1, pageTimer := pagePeriod v.plan }
    | .running _ => if k + v.page * m + 1 > l then { v with page := 0, pageTimer := pagePeriod v.plan } else v

/-- Whether two plans differ in what restarts paging (R103). -/
def repages (old new : ChainPlan) : Bool :=
  old.roles.count .list != new.roles.count .list || old.pinned != new.pinned || old.sectorMask != new.sectorMask ||
    old.platformFilter != new.platformFilter

/-- The composer's part of a cycle start (R103), under the plan that becomes the cycle plan. -/
def ChainView.startCycle (v : ChainView) (plan : ChainPlan) (t : Table) : ChainView :=
  let v := if repages v.plan plan then { v with page := 0, pageTimer := .stopped } else v
  let v := { v with plan := plan, nextRow := 1, running := true }
  if !plan.enabled then
    { v with
      pages := [], page := 0, pageTimer := .stopped, partTimer := .stopped, partOwed := false, cursor := none }
  else
    let v := ({ v with pages := snapshot t plan } : ChainView).updatePage
    if plan.roles.contains .notice then v
    else v.withoutCursor

/-- The link's part of a cycle start (R124). -/
def Link.startCycle (l : Link) (plan : ChainPlan) : Link :=
  { l with
    state := .lead
    rowCount := plan.roles.length
    disabled := !plan.enabled
    clean := true
    refresh := .running (millisLeft plan.refreshPeriod) }

/-- A cycle start of a chain, composer and link in the same change (R124). -/
def State.startCycle (s : State) (c : Chain) : State :=
  let plan := s.settings.plans[c]
  (s.setView c (s.composer.views[c].startCycle plan s.table)).setLink c (s.links[c].startCycle plan)

end Sys2Proof.Machine
end

