-- ==== Sys2Proof/Machine/Compose.lean ====
section
/-! DEFINITION. The Wall Composer's steps (chapter 6): minute events, cycle starts, compositions, timers and the notice
commands. -/

namespace Sys2Proof.Machine

/-! ### Minutes -/

/-- The notice list without the entries that an expiry minute has ended (R101). -/
def expireNotices (n : Nat) (notices : Vector (Option Notice) 8) : Vector (Option Notice) 8 :=
  mapAll (fun x => x.filter fun e => !(e.expiry.any fun m => decide (m ≤ (n : Int)))) notices

/-- COMPOSER_MINUTE_EVENT (R101). -/
def execComposerMinuteEvent (s : State) : Result :=
  whenOperating s fun s =>
    match s.composer.inbox with
    | .minute n :: rest =>
      { s with composer := { s.composer with
          working := n, clockSet := true, notices := expireNotices n s.composer.notices, inbox := rest } }
    | _ => s

/-- NOTICE_REBASE: stage 2 of the rollover (R101, R5); the scheduler's stage is then due (R4). -/
def execNoticeRebase (s : State) : Result :=
  whenOperating s fun s =>
    match s.composer.inbox with
    | .rebase :: rest =>
      { s with
        composer := { s.composer with
          working := s.composer.working - 1440
          notices := mapAll (Option.map fun e : Notice => { e with expiry := e.expiry.map rebased }) s.composer.notices
          inbox := rest }
        time := { s.time with rollover := some .scheduler } }
    | _ => s

/-! ### Cycles and timers -/

/-- CYCLE_START: "taken when the link is in ENDED and its refresh timer is RUN_OUT" (R124). -/
def execCycleStart (c : Chain) (s : State) : Result :=
  whenOperating s fun s =>
    if s.links[c].state = .ended ∧ s.links[c].refresh = .runOut then s.startCycle c else s

/-- PAGE_TIMER_EXPIRY: the timer passes to RUN_OUT and "does nothing more on running out" (R104). -/
def execPageTimerExpiry (c : Chain) (s : State) : Result :=
  whenOperating s fun s =>
    if s.composer.views[c].pageTimer = .running 0 then
      s.setView c { s.composer.views[c] with pageTimer := .runOut }
    else s

/-- PART_TIMER_EXPIRY (R119), also of a period that a SET NOTICE has cut off by its restart (R121, log 40). -/
def execPartTimerExpiry (c : Chain) (s : State) : Result :=
  whenOperating s fun s =>
    let v := s.composer.views[c]
    if v.partTimer = .running 0 ∨ v.partOwed = true then s.setView c (movedCursor s v) else s

/-! ### Compositions (R106) -/

/-- Whether a chain is wanting: RUNNING, its next row within its row count, fewer than 2 places taken (R106). -/
def State.wanting (s : State) (c : Chain) : Bool :=
  let v := s.composer.views[c]
  v.running && decide (v.nextRow ≤ v.plan.roles.length) && decide (s.links[c].feed.length < 2)

/-- The chains in the order after the last chain served, that chain last (R106). -/
def chainsAfter (c : Chain) : List Chain := [c + 1, c + 2, c + 3, c]

/-- Begin the composition of a chain's next row (R106): all that it shows is read now. -/
def beginComposition (c : Chain) (s : State) : State :=
  let v := s.composer.views[c]
  let k := v.nextRow
  let (v', image) := composeRow s v k
  let s := s.setView c { v' with nextRow := k + 1 }
  let s := s.setLink c { s.links[c] with feed := s.links[c].feed ++ [.reserved k] }
  { s with composer := { s.composer with engine := some ⟨c, k, image, false⟩, lastServed := c } }

/-- COMPOSITION_START: while the engine is IDLE, the first wanting chain after the last one served (R106). -/
def execCompositionStart (s : State) : Result :=
  whenOperating s fun s =>
    match s.composer.engine, (chainsAfter s.composer.lastServed).find? s.wanting with
    | none, some c => beginComposition c s
    | _, _ => s

/-- The image put into the place reserved for it. -/
def deliverImage (k : Nat) (image : LineImage) : List FeedPlace → List FeedPlace :=
  List.map fun p => match p with
    | .reserved r => if r = k then .image k image else .reserved r
    | .image r i => .image r i

/-- The reserved place released. -/
def releasePlace (feed : List FeedPlace) : List FeedPlace :=
  feed.filter fun p => match p with
    | .reserved _ => false
    | .image _ _ => true

/-- COMPOSITION_COMPLETION: the image goes into its place, or is discarded where the link has passed the row (R106). -/
def execCompositionCompletion (s : State) : Result :=
  whenOperating s fun s =>
    match s.composer.engine with
    | none => s
    | some e =>
      let l := s.links[e.chain]
      let feed := if e.passed then releasePlace l.feed else deliverImage e.row e.image l.feed
      let s := s.setLink e.chain { l with feed := feed }
      { s with composer := { s.composer with engine := none } }

/-! ### The notice commands (R113 to R115) -/

/-- A chain's view after SET NOTICE at a position: a cursor on it goes to part 0 and its timer restarts (R113,
log 35); where the timer had run out, "the expiry then moves on from part 0" (R121, log 40). -/
def ChainView.noticeSet (period : Timer) (p : Fin 8) (v : ChainView) : ChainView :=
  match v.cursor with
  | some cur =>
    if cur.item = .position p then
      { v with
        cursor := some ⟨.position p, 0⟩, partTimer := period
        partOwed := v.partOwed || decide (v.partTimer = .running 0) }
    else v
  | none => v

def setNoticeServed (q : Fin 8 × Notice) (s : State) : Served :=
  done { s with composer := { s.composer with
    notices := put s.composer.notices q.1 (some q.2)
    views := mapAll (ChainView.noticeSet (partPeriod s) q.1) s.composer.views } } []

def execSetNotice (c : Ctrl) (s : State) : Result :=
  serve c.port codeSetNotice (authorised c (parsed parseNotice setNoticeServed)) s

def clearNoticeServed (p : Fin 8) (s : State) : Served :=
  done { s with composer := { s.composer with notices := put s.composer.notices p none } } []

def execClearNotice (c : Ctrl) (s : State) : Result :=
  serve c.port codeClearNotice (authorised c (parsed parsePosition clearNoticeServed)) s

/-- One position of READ NOTICES: 7 bytes (10.8). -/
def noticeBytes : Option Notice → List Byte
  | some n => [1] ++ refBytes n.ref ++ [byte n.priority] ++ beOptMinute n.expiry
  | none => [0] ++ optRefBytes none ++ [openByte .emptyNoticePriority] ++ openBytes .emptyNoticeExpiry

/-- One chain of READ NOTICES: 9 bytes (10.8). -/
def cursorBytes : Option Cursor → List Byte
  | none => [0, openByte .absentItemPlace] ++ List.replicate 6 0 ++ [openByte .absentItemPart]
  | some ⟨.position p, j⟩ => [1, byte p.val] ++ List.replicate 6 0 ++ [byte j]
  | some ⟨.automatic slot code, j⟩ => [2, byte slot.val] ++ packCode code ++ [byte j]

/-- The 92 bytes of READ NOTICES (R115). -/
def Composer.bytes (c : Composer) : List Byte :=
  c.notices.toList.flatMap noticeBytes ++ c.views.toList.flatMap fun v => cursorBytes v.cursor

def execReadNotices (c : Ctrl) (s : State) : Result :=
  serve c.port codeReadNotices (withoutPayload fun s => done s s.composer.bytes) s

end Sys2Proof.Machine
end

