-- ==== Sys2Proof/Machine/CueOps.lean ====
section
/-! DEFINITION. Shared operations of the Cue Scheduler (chapter 8): kinds and classes, queues, handles, forming and
refreshing cues, supersession, withdrawal and the pick. -/

namespace Sys2Proof.Machine

/-! ### Kinds and classes (8.1) -/

def CueKind.cls : CueKind → CueClass
  | .notice => .safety
  | .platformChange => .platform
  | .delay | .cancel => .delay
  | .call | .closing => .routine

/-- The number of a kind (10.8). -/
def CueKind.number : CueKind → Byte
  | .notice => 0
  | .platformChange => 1
  | .delay => 2
  | .cancel => 3
  | .call => 4
  | .closing => 5

/-- Whether a kind holds a remark (R134). -/
def CueKind.holdsRemark : CueKind → Bool
  | .delay | .cancel => true
  | .notice | .platformChange | .call | .closing => false

/-! ### Queues (8.2) -/

def Cues.queue (c : Cues) : CueClass → List Cue
  | .safety => c.safety
  | .platform => c.platform
  | .delay => c.delay
  | .routine => c.routine

def Cues.setQueue (c : Cues) (k : CueClass) (q : List Cue) : Cues :=
  match k with
  | .safety => { c with safety := q }
  | .platform => { c with platform := q }
  | .delay => { c with delay := q }
  | .routine => { c with routine := q }

/-- Every pending cue. -/
def Cues.allPending (c : Cues) : List Cue := c.safety ++ c.platform ++ c.delay ++ c.routine

/-- Whether one or more cues are pending. -/
def Cues.anyPending (c : Cues) : Bool := !c.allPending.isEmpty

/-- The drop counter of a class, incremented (R139, R150). -/
def Cues.countDrop (c : Cues) (k : CueClass) : Cues :=
  match k with
  | .safety => { c with dropSafety := increment c.dropSafety }
  | .platform => { c with dropPlatform := increment c.dropPlatform }
  | .delay => { c with dropDelay := increment c.dropDelay }
  | .routine => { c with dropRoutine := increment c.dropRoutine }

/-! ### Handles (R135) -/

/-- Whether a pending cue or the playing cue holds a handle. -/
def Cues.handleHeld (c : Cues) (h : Nat) : Bool :=
  c.allPending.any (fun q => q.handle == h) || c.playing.any (fun p => p.cue.handle == h)

/-- The handle after another, "255 being followed by 1". -/
def handleAfter (h : Nat) : Nat := h % 255 + 1

/-- The handle an assignment gives: the counter's value, or the first after it that no cue holds (R135); one is always
free, and where none were the counter's own value is given (log 30). -/
def Cues.freeHandle (c : Cues) : Nat :=
  (((List.range 255).map fun i => (c.nextHandle - 1 + i) % 255 + 1).find? fun h => !c.handleHeld h).getD c.nextHandle

/-! ### Forming and refreshing cues (R134, R139, R141) -/

/-- A cue formed from an issue, with the fields its kind holds (R134). -/
def Issue.cue (i : Issue) (handle : Nat) : Cue where
  handle := handle
  kind := i.kind
  slot := some i.slot
  code := i.code
  platform := i.platform
  previous := if i.kind = .platformChange then i.previous else none
  effective := some i.effective
  delay := if i.kind = .delay then some i.delay else none
  destination := some i.destination
  remark := if i.kind.holdsRemark then i.remark else none
  text := none
  repeats := 0
  issued := i.issued

/-- A NOTICE cue (R153). -/
def noticeCue (handle : Nat) (text : TextRef) (repeats : Nat) (working : Int) : Cue where
  handle := handle
  kind := .notice
  slot := none
  code := []
  platform := none
  previous := none
  effective := none
  delay := none
  destination := none
  remark := none
  text := some text
  repeats := repeats
  issued := working

/-- Whether a cue is of an issue's kind and slot (R139). -/
def Issue.matchesCue (i : Issue) (q : Cue) : Bool := q.kind == i.kind && q.slot == some i.slot

/-- A pending cue of an issue's kind and slot with its content replaced in place: "The cue keeps its handle and its
position" (R139). -/
def Issue.replace (i : Issue) (q : Cue) : Cue :=
  if i.matchesCue q then { i.cue q.handle with code := q.code } else q

/-- A cue with the carried fields of its kind at a refresh's values (R141). -/
def Cue.refreshed (r : Refresh) (q : Cue) : Cue :=
  { q with
    platform := r.platform
    effective := some r.effective
    delay := if q.kind = .delay then some r.delay else q.delay
    remark := if q.kind.holdsRemark then r.remark else q.remark }

/-- A refresh of the pending cues of a slot, in every class queue (R141). -/
def Cues.refresh (c : Cues) (r : Refresh) : Cues :=
  let f := List.map fun q : Cue => if q.slot = some r.slot then q.refreshed r else q
  { c with safety := f c.safety, platform := f c.platform, delay := f c.delay, routine := f c.routine }

/-! ### Appending (R140) -/

/-- Append a cue at the tail of its class queue and raise what R140 gives. -/
def State.appendCue (s : State) (q : Cue) : State :=
  let k := q.kind.cls
  let s := { s with cues := s.cues.setQueue k (s.cues.queue k ++ [q]) }
  let s := if q.kind = .notice then s.raise .cp .safetyCueReady else s
  if s.cues.playing.isNone then s.raise .cp .cueReady else s

/-- Drop a cue of a class at a full queue: counted, and CUE_DROPPED raised (R139, R150). -/
def State.dropCue (s : State) (k : CueClass) : State :=
  ({ s with cues := s.cues.countDrop k } : State).raiseRouted (.cueDropped k)

/-- CUE_READY "while one or more cues are pending afterward" (R140, R150, R151). -/
def State.offerNext (s : State) : State := if s.cues.anyPending then s.raise .cp .cueReady else s

/-! ### Supersession and withdrawal (R142 to R145) -/

/-- Supersede the playing cue where `p` holds of it; one whose flag is set already is left as it is (R142). -/
def State.supersedeIf (s : State) (p : Cue → Bool) : State :=
  match s.cues.playing with
  | none => s
  | some x =>
    if p x.cue ∧ x.superseded = false then
      ({ s with cues := { s.cues with playing := some { x with superseded := true } } } : State).raise .cp
        (.cueSuperseded x.cue.handle)
    else s

/-- Remove the pending cues of the PLATFORM, DELAY and ROUTINE queues for which `p` holds, each counted as withdrawn in
its class (R143 to R145). A NOTICE is never withdrawn (R152). -/
def Cues.withdraw (c : Cues) (p : Cue → Bool) : Cues :=
  { c with
    platform := c.platform.filter fun q => !p q
    delay := c.delay.filter fun q => !p q
    routine := c.routine.filter fun q => !p q
    withdrawnPlatform := incrementBy (c.platform.countP p) c.withdrawnPlatform
    withdrawnDelay := incrementBy (c.delay.countP p) c.withdrawnDelay
    withdrawnRoutine := incrementBy (c.routine.countP p) c.withdrawnRoutine }

/-- Whether a cue is of a slot. -/
def Cue.ofSlot (slot : Slot) (q : Cue) : Bool := q.slot == some slot

/-! ### The pick (R146, R147) -/

def Cues.credit (c : Cues) : CueClass → Nat
  | .safety => 0
  | .platform => c.creditPlatform
  | .delay => c.creditDelay
  | .routine => c.creditRoutine

/-- Each credit reloaded to its class weight (R147, R148). -/
def Cues.reload (c : Cues) (cfg : Settings) : Cues :=
  { c with creditPlatform := cfg.platformWeight, creditDelay := cfg.delayWeight, creditRoutine := cfg.routineWeight }

/-- One credit lowered by 1. -/
def Cues.spend (c : Cues) : CueClass → Cues
  | .safety => c
  | .platform => { c with creditPlatform := c.creditPlatform - 1 }
  | .delay => { c with creditDelay := c.creditDelay - 1 }
  | .routine => { c with creditRoutine := c.creditRoutine - 1 }

/-- The non-empty classes of PLATFORM, DELAY and ROUTINE, in that order. -/
def Cues.nonEmpty (c : Cues) : List CueClass :=
  [CueClass.platform, .delay, .routine].filter fun k => !(c.queue k).isEmpty

/-- The credits with which a WEIGHTED pick chooses: reloaded where "every non-empty one of them has credit 0" (R147). -/
def Cues.reloaded (c : Cues) (cfg : Settings) : Cues :=
  if !c.nonEmpty.isEmpty && c.nonEmpty.all (fun k => c.credit k == 0) then c.reload cfg else c

/-- The class picked, and the scheduler with its credits after the pick (R146, R147). -/
def Cues.pick (c : Cues) (cfg : Settings) : Option CueClass × Cues :=
  if !c.safety.isEmpty then (some .safety, c)
  else
    match cfg.scheduling with
    | .strict => (c.nonEmpty.head?, c)
    | .weighted =>
      let c := c.reloaded cfg
      match c.nonEmpty.find? fun k => decide (0 < c.credit k) with
      | some k => (some k, c.spend k)
      | none => (none, c)

/-! ### Ages and layouts -/

/-- "the working minute less the cue's issue minute, reported as 0 where that difference is negative" (R137). -/
def Cues.age (c : Cues) (q : Cue) : Nat := (c.working - q.issued).toNat

/-- The slot of a cue on the wire: 0xFF for a NOTICE (10.8). -/
def Cue.slotByte (q : Cue) : Byte :=
  match q.slot with
  | some i => byte i.val
  | none => 0xFF

/-- The remark of a fetched cue (10.8, R134): 0 for the kinds that hold none; DELAY and CANCEL hold one where the record
has one, and else send length 0, with a start row that 10.8 does not state and that is free (log 19). -/
def Cue.remarkBytes (q : Cue) : List Byte :=
  if q.remark = none ∧ (q.kind = .delay ∨ q.kind = .cancel) then openBytes .absentCueRemarkRow ++ [0]
  else cueRefBytes q.remark

/-- The 31 bytes of a fetched cue (10.8): "Fields the kind does not hold (R134) are sent as 0." DESIGN CHOICE (log 42): an
absent platform is sent as 0 too. -/
def Cues.cueBytes (c : Cues) (q : Cue) : List Byte :=
  [1, byte q.handle, q.kind.number, byte q.kind.cls.number, q.slotByte] ++ packCode q.code ++
  [byte (q.platform.getD 0), byte (q.previous.getD 0)] ++ beInt (q.effective.getD 0) ++ beInt (q.delay.getD 0) ++
  cueRefBytes q.destination ++ q.remarkBytes ++ cueRefBytes q.text ++ [byte q.repeats] ++
  beInt q.issued ++ be16 (c.age q)

/-- The age of a queue's head, 0 for an empty queue (R154). -/
def Cues.headAge (c : Cues) (k : CueClass) : Nat :=
  match (c.queue k).head? with
  | some q => c.age q
  | none => 0

/-- The 40 bytes of READ CUE STATUS (R154, 10.8). -/
def cueStatusBytes (s : State) : List Byte :=
  let c := s.cues
  let classes : List CueClass := [.safety, .platform, .delay, .routine]
  classes.map (fun k => byte (c.queue k).length) ++ classes.flatMap (fun k => be16 (c.headAge k)) ++
  (match c.playing with
   | some p =>
     [1, byte p.cue.handle, p.cue.kind.number, byte p.cue.kind.cls.number, p.cue.slotByte, flag p.superseded] ++
       be16 (wholeSeconds p.left)
   | none => List.replicate 8 0) ++
  [(match s.settings.scheduling with | .strict => 0 | .weighted => 1 : Byte)] ++
  [byte c.creditPlatform, byte c.creditDelay, byte c.creditRoutine] ++
  beCounter c.dropSafety ++ beCounter c.dropPlatform ++ beCounter c.dropDelay ++ beCounter c.dropRoutine ++
  beCounter c.withdrawnPlatform ++ beCounter c.withdrawnDelay ++ beCounter c.withdrawnRoutine ++
  beCounter c.playTimeouts

end Sys2Proof.Machine
end

