-- ==== Sys2Proof/Machine/Items.lean ====
section
/-! DEFINITION. The 47 configuration items: tags, value bytes and ranges (11.1), and the stored configuration block
(11.2). -/

namespace Sys2Proof.Machine

/-- The configuration items (11.1). -/
inductive Item where
  | dayStart | stepLimit
  | onTimeTolerance | callLead | closeLead | departGrace | goneHold | cancelHold | delayCueThreshold | delayCueStep
  | conflictWindow | changeFlash
  | yieldTime | holdSilence | seizeEnable
  | plan (k : Chain)
  | remark (r : Remark)
  | autoDelayNotices | noticePeriod
  | scheduling | platformWeight | delayWeight | routineWeight | playTimeout
  | line (k : Line)
  | routing (k : RoutedKind)
deriving DecidableEq, Repr

/-- Every item, in ascending tag order. -/
def Item.all : List Item :=
  [.dayStart, .stepLimit] ++
  [.onTimeTolerance, .callLead, .closeLead, .departGrace, .goneHold, .cancelHold, .delayCueThreshold, .delayCueStep,
   .conflictWindow, .changeFlash] ++
  [.yieldTime, .holdSilence, .seizeEnable] ++
  [.plan 0, .plan 1, .plan 2, .plan 3] ++
  [.remark .cancelled, .remark .departed, .remark .closing, .remark .platformChanged, .remark .expected,
   .remark .boarding, .remark .onTime] ++
  [.autoDelayNotices, .noticePeriod] ++
  [.scheduling, .platformWeight, .delayWeight, .routineWeight, .playTimeout] ++
  [.line 0, .line 1, .line 2, .line 3] ++
  [.routing .timeStepped, .routing .timeRefLost, .routing .timeRefRegained, .routing .dayRollover,
   .routing .clockLineFault, .routing .chainFault, .routing .platformConflict, .routing .boardChanged,
   .routing .cueDropped, .routing .configDefaulted]

/-- The tags of 11.1. -/
def Item.tag : Item → Byte
  | .dayStart => 0x01
  | .stepLimit => 0x02
  | .onTimeTolerance => 0x10
  | .callLead => 0x11
  | .closeLead => 0x12
  | .departGrace => 0x13
  | .goneHold => 0x14
  | .cancelHold => 0x15
  | .delayCueThreshold => 0x16
  | .delayCueStep => 0x17
  | .conflictWindow => 0x18
  | .changeFlash => 0x19
  | .yieldTime => 0x20
  | .holdSilence => 0x21
  | .seizeEnable => 0x22
  | .plan k => 0x30 + BitVec.ofNat 8 k.val
  | .remark .cancelled => 0x40
  | .remark .departed => 0x41
  | .remark .closing => 0x42
  | .remark .platformChanged => 0x43
  | .remark .expected => 0x44
  | .remark .boarding => 0x45
  | .remark .onTime => 0x46
  | .autoDelayNotices => 0x48
  | .noticePeriod => 0x49
  | .scheduling => 0x50
  | .platformWeight => 0x51
  | .delayWeight => 0x52
  | .routineWeight => 0x53
  | .playTimeout => 0x54
  | .line k => 0x60 + BitVec.ofNat 8 k.val
  | .routing .timeStepped => 0x70
  | .routing .timeRefLost => 0x71
  | .routing .timeRefRegained => 0x72
  | .routing .dayRollover => 0x73
  | .routing .clockLineFault => 0x74
  | .routing .chainFault => 0x75
  | .routing .platformConflict => 0x76
  | .routing .boardChanged => 0x77
  | .routing .cueDropped => 0x78
  | .routing .configDefaulted => 0x79

/-- The item of a tag, where the tag is in the item table. -/
def itemOfTag (t : Byte) : Option Item := Item.all.find? fun i => i.tag == t

/-! ### Value bytes -/

def roleByte : Role → Byte
  | .list => 0
  | .notice => 1
  | .clock => 2
  | .blank => 3

def roleOfByte (b : Byte) : Option Role :=
  match b.toNat with
  | 0 => some .list
  | 1 => some .notice
  | 2 => some .clock
  | 3 => some .blank
  | _ => none

def routeByte : Route → Byte
  | .holder => 0
  | .both => 1
  | .none => 2

/-- A chain plan value: 10 + row count bytes (11.1). -/
def planBytes (p : ChainPlan) : List Byte :=
  [flag p.enabled, byte p.width, byte p.roles.length, byte p.sectorMask.toNat, byte p.platformFilter, byte p.pinned,
   byte p.pagePeriod] ++ be16 p.refreshPeriod ++
  [(match p.timeMode with | .clocktime => 0 | .countdown => 1 : Byte)] ++ p.roles.map roleByte

def lineBytes (l : LineConfig) : List Byte := [flag l.enabled] ++ be16 l.width ++ [byte l.fast, byte l.wait]

def remarkRef (t : RemarkTexts) : Remark → TextRef
  | .cancelled => t.cancelled
  | .departed => t.departed
  | .closing => t.closing
  | .platformChanged => t.platformChanged
  | .expected => t.expected
  | .boarding => t.boarding
  | .onTime => t.onTime

def setRemarkRef (t : RemarkTexts) (k : Remark) (r : TextRef) : RemarkTexts :=
  match k with
  | .cancelled => { t with cancelled := r }
  | .departed => { t with departed := r }
  | .closing => { t with closing := r }
  | .platformChanged => { t with platformChanged := r }
  | .expected => { t with expected := r }
  | .boarding => { t with boarding := r }
  | .onTime => { t with onTime := r }

def routeFor (t : Routing) : RoutedKind → Route
  | .timeStepped => t.timeStepped
  | .timeRefLost => t.timeRefLost
  | .timeRefRegained => t.timeRefRegained
  | .dayRollover => t.dayRollover
  | .clockLineFault => t.clockLineFault
  | .chainFault => t.chainFault
  | .platformConflict => t.platformConflict
  | .boardChanged => t.boardChanged
  | .cueDropped => t.cueDropped
  | .configDefaulted => t.configDefaulted

def setRoute (t : Routing) (k : RoutedKind) (r : Route) : Routing :=
  match k with
  | .timeStepped => { t with timeStepped := r }
  | .timeRefLost => { t with timeRefLost := r }
  | .timeRefRegained => { t with timeRefRegained := r }
  | .dayRollover => { t with dayRollover := r }
  | .clockLineFault => { t with clockLineFault := r }
  | .chainFault => { t with chainFault := r }
  | .platformConflict => { t with platformConflict := r }
  | .boardChanged => { t with boardChanged := r }
  | .cueDropped => { t with cueDropped := r }
  | .configDefaulted => { t with configDefaulted := r }

/-- An item's active value in bytes (11.1). -/
def Item.value (c : Settings) : Item → List Byte
  | .dayStart => be16 c.dayStart
  | .stepLimit => [byte c.stepLimit]
  | .onTimeTolerance => [byte c.onTimeTolerance]
  | .callLead => [byte c.callLead]
  | .closeLead => [byte c.closeLead]
  | .departGrace => [byte c.departGrace]
  | .goneHold => [byte c.goneHold]
  | .cancelHold => [byte c.cancelHold]
  | .delayCueThreshold => [byte c.delayCueThreshold]
  | .delayCueStep => [byte c.delayCueStep]
  | .conflictWindow => [byte c.conflictWindow]
  | .changeFlash => [byte c.changeFlash]
  | .yieldTime => [byte c.yieldTime]
  | .holdSilence => [byte c.holdSilence]
  | .seizeEnable => [flag c.seizeEnable]
  | .plan k => planBytes c.plans[k]
  | .remark r => refBytes (remarkRef c.remarks r)
  | .autoDelayNotices => [flag c.autoDelayNotices]
  | .noticePeriod => [byte c.noticePeriod]
  | .scheduling => [match c.scheduling with | .strict => 0 | .weighted => 1]
  | .platformWeight => [byte c.platformWeight]
  | .delayWeight => [byte c.delayWeight]
  | .routineWeight => [byte c.routineWeight]
  | .playTimeout => be16 c.playTimeout
  | .line k => lineBytes c.lines[k]
  | .routing k => [routeByte (routeFor c.routing k)]

/-! ### Reading a value, with its range and its own consistency (R186) -/

/-- A number within its range. -/
def inRange (lo hi n : Nat) : Option Nat := if lo ≤ n ∧ n ≤ hi then some n else none

/-- A 1-byte number within its range. -/
def oneByte (lo hi : Nat) (v : List Byte) : Option Nat :=
  match v with
  | [b] => inRange lo hi b.toNat
  | _ => none

/-- A 2-byte number within its range. -/
def twoBytes (lo hi : Nat) (v : List Byte) : Option Nat :=
  match v with
  | [a, b] => inRange lo hi (a.toNat * 256 + b.toNat)
  | _ => none

def yesNo (v : List Byte) : Option Bool := (oneByte 0 1 v).map (· == 1)

/-- The number of LIST rows of a list of roles (6.1). -/
def listRows (roles : List Role) : Nat := roles.count .list

/-- A chain plan in its ranges (6.1) and consistent: as many roles as rows, no more pinned than LIST rows (R100). -/
def planOf (v : List Byte) : Option ChainPlan :=
  if v.length = 10 + byteAt v 2 then do
    let enabled ← inRange 0 1 (byteAt v 0)
    let width ← inRange 24 64 (byteAt v 1)
    let _ ← inRange 1 12 (byteAt v 2)
    let mask ← inRange 0 15 (byteAt v 3)
    let filter ← inRange 0 32 (byteAt v 4)
    let pagePeriod ← inRange 4 30 (byteAt v 6)
    let refreshPeriod ← inRange 250 2000 (u16At v 7)
    let mode ← inRange 0 1 (byteAt v 9)
    let roles ← (v.drop 10).mapM roleOfByte
    let pinned ← inRange 0 (listRows roles) (byteAt v 5)
    return ⟨enabled == 1, width, roles, BitVec.ofNat 4 mask, filter, pinned, pagePeriod, refreshPeriod,
      if mode = 0 then .clocktime else .countdown⟩
  else none

/-- A line configuration in its ranges (9.1), the impulse width a multiple of 50 ms (R168). -/
def lineOf (v : List Byte) : Option LineConfig :=
  if v.length = 5 then do
    let enabled ← inRange 0 1 (byteAt v 0)
    let width ← inRange 200 1000 (u16At v 1)
    let fast ← inRange 1 10 (byteAt v 3)
    let wait ← inRange 0 120 (byteAt v 4)
    if width % 50 = 0 then some ⟨enabled == 1, width, fast, wait⟩ else none
  else none

/-- A text reference value with the span check (11.1). -/
def refValue (v : List Byte) : Option TextRef := if v.length = 3 then refAt v 0 else none

def routeOf (v : List Byte) : Option Route :=
  (oneByte 0 2 v).map fun n => if n = 0 then .holder else if n = 1 then .both else .none

/-- The configuration with an item replaced by a value; none where the length, a range or the value's own consistency
fails (R186). -/
def Item.store (c : Settings) (i : Item) (v : List Byte) : Option Settings :=
  match i with
  | .dayStart => (twoBytes 0 1439 v).map fun n => { c with dayStart := n }
  | .stepLimit => (oneByte 1 8 v).map fun n => { c with stepLimit := n }
  | .onTimeTolerance => (oneByte 0 5 v).map fun n => { c with onTimeTolerance := n }
  | .callLead => (oneByte 5 60 v).map fun n => { c with callLead := n }
  | .closeLead => (oneByte 1 10 v).map fun n => { c with closeLead := n }
  | .departGrace => (oneByte 0 10 v).map fun n => { c with departGrace := n }
  | .goneHold => (oneByte 0 5 v).map fun n => { c with goneHold := n }
  | .cancelHold => (oneByte 0 60 v).map fun n => { c with cancelHold := n }
  | .delayCueThreshold => (oneByte 1 60 v).map fun n => { c with delayCueThreshold := n }
  | .delayCueStep => (oneByte 1 30 v).map fun n => { c with delayCueStep := n }
  | .conflictWindow => (oneByte 0 10 v).map fun n => { c with conflictWindow := n }
  | .changeFlash => (oneByte 0 15 v).map fun n => { c with changeFlash := n }
  | .yieldTime => (oneByte 5 120 v).map fun n => { c with yieldTime := n }
  | .holdSilence => (oneByte 2 60 v).map fun n => { c with holdSilence := n }
  | .seizeEnable => (yesNo v).map fun b => { c with seizeEnable := b }
  | .plan k => (planOf v).map fun p => { c with plans := put c.plans k p }
  | .remark r => (refValue v).map fun t => { c with remarks := setRemarkRef c.remarks r t }
  | .autoDelayNotices => (yesNo v).map fun b => { c with autoDelayNotices := b }
  | .noticePeriod => (oneByte 2 10 v).map fun n => { c with noticePeriod := n }
  | .scheduling => (yesNo v).map fun b => { c with scheduling := if b then .weighted else .strict }
  | .platformWeight => (oneByte 1 8 v).map fun n => { c with platformWeight := n }
  | .delayWeight => (oneByte 1 8 v).map fun n => { c with delayWeight := n }
  | .routineWeight => (oneByte 1 8 v).map fun n => { c with routineWeight := n }
  | .playTimeout => (twoBytes 30 600 v).map fun n => { c with playTimeout := n }
  | .line k => (lineOf v).map fun l => { c with lines := put c.lines k l }
  | .routing k => (routeOf v).map fun r => { c with routing := setRoute c.routing k r }

/-- The constraint between two items: CLOSE LEAD below CALL LEAD (R54). -/
def leadsOrdered (c : Settings) : Bool := decide (c.closeLead < c.callLead)

/-! ### The stored configuration block (11.2) -/

/-- One item of the block: tag, length, value. -/
def Item.encoded (c : Settings) (i : Item) : List Byte :=
  [i.tag, byte (i.value c).length] ++ i.value c

/-- The block a successful commit writes: "all 47 items in ascending tag order, each at its canonical length, with a
matching CRC" (R187). -/
def encodeBlock (c : Settings) : List Byte :=
  let items := Item.all.flatMap (Item.encoded c)
  let body := be16 items.length ++ items
  body ++ be16 (crc16 body).toNat

/-- Whether the block passes: the item-area length leaves the CRC within 512 bytes, and the CRC matches (R188). -/
def StoredBlock.intact (b : StoredBlock) : Bool :=
  let n := u16At b.bytes 0
  !b.cutOff && decide (n + 4 ≤ 512) && decide (n + 4 ≤ b.bytes.length) &&
    (crc16 (b.bytes.take (n + 2))).toNat == u16At b.bytes (n + 2)

/-- The items of an item area, in block order; an item that runs past the area ends it (log 29). -/
def splitItems : Nat → List Byte → List (Byte × List Byte)
  | 0, _ => []
  | fuel + 1, tag :: len :: rest =>
    if len.toNat ≤ rest.length then (tag, rest.take len.toNat) :: splitItems fuel (rest.drop len.toNat) else []
  | _ + 1, _ => []

/-- The configuration with one item at its default. -/
def Item.restore (c : Settings) (i : Item) : Settings := (i.store c (i.value defaultSettings)).getD c

/-- Take one item of the block (R188): an unknown tag is skipped, a wrong value gives that item its default. -/
def takeItem (c : Settings) (e : Byte × List Byte) : Settings :=
  match itemOfTag e.1 with
  | none => c
  | some i => (i.store c e.2).getD (i.restore c)

/-- "a CALL LEAD and CLOSE LEAD that break the constraint both take their defaults, 15 and 2" (R188, R54). -/
def mendLeads (c : Settings) : Settings :=
  if leadsOrdered c then c
  else { c with callLead := defaultSettings.callLead, closeLead := defaultSettings.closeLead }

/-- The active configuration formed from a block whose CRC matches (R188). -/
def StoredBlock.settings (b : StoredBlock) : Settings :=
  let n := u16At b.bytes 0
  mendLeads ((splitItems n ((b.bytes.drop 2).take n)).foldl takeItem defaultSettings)

end Sys2Proof.Machine
end

