-- ==== Sys2Proof/Machine/Configuration.lean ====
section
/-! DEFINITION. The configuration commands, the counters' commands and READ IDENT (chapter 11, 10.6). -/

namespace Sys2Proof.Machine

/-! ### Writing and reading items (R186) -/

/-- Whether a write is one of the two leads, to which the constraint of R54 applies. -/
def Item.isLead : Item → Bool
  | .callLead | .closeLead => true
  | .dayStart | .stepLimit | .onTimeTolerance | .departGrace | .goneHold | .cancelHold | .delayCueThreshold
  | .delayCueStep | .conflictWindow | .changeFlash | .yieldTime | .holdSilence | .seizeEnable | .plan _ | .remark _
  | .autoDelayNotices | .noticePeriod | .scheduling | .platformWeight | .delayWeight | .routineWeight | .playTimeout
  | .line _ | .routing _ => false

/-- A write that makes a chain's plan enabled takes a HALTED link to ENDED with its refresh timer RUN_OUT (R129). -/
def State.leaveHalted (s : State) (c : Chain) : State :=
  if s.settings.plans[c].enabled ∧ s.links[c].state = .halted then
    s.setLink c { s.links[c] with state := .ended, refresh := .runOut }
  else s

/-- A write of a line's configuration (R168, log 39): enabled NO turns the line off; else its wait window is taken as
written and the line is evaluated where it is evaluable. DESIGN CHOICE (log 46), unsafe: R168 gives the evaluation and the
turning off of one write in no order, and a write of enabled NO turns the line off without an evaluation before it. -/
def State.lineWritten (s : State) (l : Line) : State :=
  if s.settings.lines[l].enabled then s.evaluateLine l else s.turnOff l

/-- The effects the owning chapters give for a write of an item (R186): the conflict check of R27, the credit reload of
R148, the leaving of HALTED of R129, the line effects of R168. -/
def Item.written (i : Item) (s : State) : State :=
  match i with
  | .conflictWindow => s.conflictCheck
  | .scheduling | .platformWeight | .delayWeight | .routineWeight => { s with cues := s.cues.reload s.settings }
  | .plan k => s.leaveHalted k
  | .line k => s.lineWritten k
  | .dayStart | .stepLimit | .onTimeTolerance | .callLead | .closeLead | .departGrace | .goneHold | .cancelHold
  | .delayCueThreshold | .delayCueStep | .changeFlash | .yieldTime | .holdSilence | .seizeEnable | .remark _
  | .autoDelayNotices | .noticePeriod | .playTimeout | .routing _ => s

/-- WRITE CONFIG ITEM past the authority check, in the order of R186's table. -/
def writeItemServed (q : Byte × List Byte) (s : State) : Served :=
  match itemOfTag q.1 with
  | none => refuse s .badArgument
  | some i =>
    match i.store s.settings q.2 with
    | none => refuse s .badArgument
    | some cfg =>
      if i.isLead ∧ leadsOrdered cfg = false then refuse s .badArgument
      else if i = .dayStart ∧ s.time.state ≠ .unset then refuse s .wrongState
      else done (i.written { s with settings := cfg }) []

def execWriteConfigItem (c : Ctrl) (s : State) : Result :=
  serve c.port codeWriteConfigItem (authorised c (parsed parseItem writeItemServed)) s

/-- READ CONFIG ITEM: the tag, the length and the active value (R186). -/
def readItemServed (payload : List Byte) (s : State) : Served :=
  match payload with
  | [tag] =>
    match itemOfTag tag with
    | some i => done s (i.encoded s.settings)
    | none => refuse s .badArgument
  | _ => refuse s .badArgument

def execReadConfigItem (c : Ctrl) (s : State) : Result := serve c.port codeReadConfigItem readItemServed s

/-! ### Configuration commits (R187) -/

/-- COMMIT CONFIG past the authority and payload checks: the engine takes every item's active value. -/
def commitConfigServed (c : Ctrl) (s : State) : Served :=
  if s.store.engine.isSome then refuse s .busy
  else ({ s with store := { s.store with engine := some ⟨.config s.settings, c⟩ } }, some ⟨.accepted, [0xFF, 0xFF]⟩)

def execCommitConfig (c : Ctrl) (s : State) : Result :=
  serve c.port codeCommitConfig (authorised c (withoutPayload (commitConfigServed c))) s

/-- CONFIG_COMMIT_COMPLETION (R187): by success the stored block is replaced as one change. -/
def execConfigCommitCompletion (success : Bool) (s : State) : Result :=
  whenOperating s fun s =>
    match s.store.engine with
    | some ⟨.config items, issuer⟩ =>
      let s := { s with store := { s.store with engine := none } }
      if success then ({ s with stored := ⟨encodeBlock items, false⟩ } : State).raise issuer.port (.commitDone .config)
      else s.raise issuer.port (.commitFailed .config)
    | _ => s

/-! ### Counters (10.6) -/

def portCounterBytes (p : PortState) : List Byte := beCounter p.badFrames ++ beCounter p.overruns

/-- A last answer as numbered in 10.8. -/
def LastAnswer.number : LastAnswer → Nat
  | .ok => 0
  | .cellsDegraded => 1
  | .absent => 2

/-- A module status entry: bits 0 and 1 the last answer, bits 2 and 3 the absent run (10.8). -/
def ModuleStatus.byte (m : ModuleStatus) : Byte := Machine.byte (m.last.number + 4 * m.absentRun)

/-- One chain of READ COUNTERS: 17 bytes; the flag is 0 CLEAR, 1 SET (10.8). -/
def Link.counterBytes (l : Link) : List Byte :=
  beCounter l.stale ++ beCounter l.absent ++ [flag l.fault] ++ l.modules.toList.map ModuleStatus.byte

/-- The 80 bytes of READ COUNTERS (R183). -/
def counterBytes (s : State) : List Byte :=
  portCounterBytes s.ports.p0 ++ portCounterBytes s.ports.p1 ++ portCounterBytes s.ports.cp ++
    s.links.toList.flatMap Link.counterBytes

def execReadCounters (p : Port) (s : State) : Result :=
  serve p codeReadCounters (withoutPayload fun s => done s (counterBytes s)) s

def PortState.cleared (p : PortState) : PortState := { p with badFrames := 0, overruns := 0 }

/-- Every counter of R183 set to 0, and nothing else changed (R184). -/
def State.clearCounters (s : State) : State :=
  { s with
    ports := ⟨s.ports.p0.cleared, s.ports.p1.cleared, s.ports.cp.cleared⟩
    time := { s.time with accepted := 0, spurious := 0 }
    links := mapAll (fun l : Link => { l with stale := 0, absent := 0 }) s.links
    cues := { s.cues with
      dropSafety := 0, dropPlatform := 0, dropDelay := 0, dropRoutine := 0
      withdrawnPlatform := 0, withdrawnDelay := 0, withdrawnRoutine := 0, playTimeouts := 0 } }

def execClearCounters (c : Ctrl) (s : State) : Result :=
  serve c.port codeClearCounters (authorised c (withoutPayload fun s => done s.clearCounters [])) s

/-! ### READ IDENT (R191) -/

/-- The strap byte: bit 0 first RATE closed, bit 1 second RATE closed, bit 2 PRI closed, bit 3 PROT closed (10.8). -/
def strapByte (st : Straps) : Byte :=
  byte ((if st.rateFirst then 1 else 0) + (if st.rateSecond then 2 else 0) + (if st.pri then 4 else 0) +
    (if st.prot then 8 else 0))

/-- The 8 bytes of READ IDENT (R191). -/
def Ident.bytes (i : Ident) : List Byte :=
  be16 6140 ++ [Config.siliconRevision, byte i.straps.unit.toNat, strapByte i.straps] ++ be16 i.failingRows ++
    [byte ((if i.configDefaulted then 1 else 0) + (if i.retentionValid then 2 else 0))]

def execReadIdent (p : Port) (s : State) : Result :=
  serve p codeReadIdent (withoutPayload fun s => done s s.ident.bytes) s

end Sys2Proof.Machine
end

