-- ==== Sys2Proof/Machine/Cues.lean ====
section
/-! DEFINITION. The Cue Scheduler's steps (chapter 8): minute events, the rebase stage, the table's notifications, and
the commands of the control ports and of the Cue Port. -/

namespace Sys2Proof.Machine

/-! ### Minutes -/

/-- CUE_MINUTE_EVENT: the working minute is set, "its whole minute work" (R137). -/
def execCueMinuteEvent (s : State) : Result :=
  whenOperating s fun s =>
    match s.cues.minutes with
    | n :: rest => { s with cues := { s.cues with working := n, minutes := rest } }
    | [] => s

/-- A cue's minutes rebased (R138). -/
def Cue.rebase (q : Cue) : Cue := { q with effective := q.effective.map rebased, issued := rebased q.issued }

/-- Every pending cue, the playing cue and the working minute rebased as one change (R138). -/
def Cues.rebase (c : Cues) : Cues :=
  { c with
    safety := c.safety.map Cue.rebase
    platform := c.platform.map Cue.rebase
    delay := c.delay.map Cue.rebase
    routine := c.routine.map Cue.rebase
    playing := c.playing.map fun p => { p with cue := p.cue.rebase }
    working := c.working - 1440 }

/-- CUE_REBASE: stage 3, after which DAY_ROLLOVER is raised and the deliveries that waited follow (R4, R138, log 13). -/
def execCueRebase (s : State) : Result :=
  whenOperating s fun s =>
    match s.cues.inbox, s.cues.minutes, s.time.rollover with
    | .rebase :: rest, [], some .scheduler =>
      let s := { s with cues := { s.cues.rebase with inbox := rest }, time := { s.time with rollover := none } }
      deliver s.time.outbox (s.raiseRouted .dayRollover)
    | _, _, _ => s

/-! ### Notifications -/

/-- The scheduler with the head of its inbox taken. -/
def State.withCueInbox (s : State) (rest : List CueMessage) : State :=
  { s with cues := { s.cues with inbox := rest } }

/-- An issue: a replacement in place, an append with a new handle, or a drop (R139). -/
def issueCue (i : Issue) (s : State) : State :=
  let k := i.kind.cls
  let q := s.cues.queue k
  if q.any i.matchesCue then
    { s with cues := s.cues.setQueue k (q.map i.replace) }
  else if q.length < 16 then
    let h := s.cues.freeHandle
    ({ s with cues := { s.cues with nextHandle := handleAfter h } } : State).appendCue (i.cue h)
  else s.dropCue k

/-- CUE_ISSUE (R139). -/
def execCueIssue (s : State) : Result :=
  whenOperating s fun s =>
    match s.cues.inbox with
    | .notice (.issue i) _ :: rest => issueCue i (s.withCueInbox rest)
    | _ => s

/-- A refresh: the pending cues of the slot, then the comparison with the playing cue (R141, R142). -/
def refreshCues (r : Refresh) (s : State) : State :=
  ({ s with cues := s.cues.refresh r } : State).supersedeIf fun q => q.ofSlot r.slot && q.refreshed r != q

/-- CUE_REFRESH (R141). -/
def execCueRefresh (s : State) : Result :=
  whenOperating s fun s =>
    match s.cues.inbox with
    | .notice (.refresh r) _ :: rest => refreshCues r (s.withCueInbox rest)
    | _ => s

/-- Withdraw the pending cues for which `p` holds, then supersede the playing cue where `p` holds of it (R143). -/
def withdrawCues (p : Cue → Bool) (s : State) : State :=
  ({ s with cues := s.cues.withdraw p } : State).supersedeIf p

/-- CUE_WITHDRAW: the cues of a slot whose kind is in a set (R143). -/
def execCueWithdraw (s : State) : Result :=
  whenOperating s fun s =>
    match s.cues.inbox with
    | .notice (.withdraw slot kinds) _ :: rest =>
      withdrawCues (fun q => q.ofSlot slot && kinds.contains q.kind) (s.withCueInbox rest)
    | _ => s

/-- RECORD_ENDED: no pending cue is removed; the playing cue of the slot is superseded (R144). -/
def execRecordEnded (s : State) : Result :=
  whenOperating s fun s =>
    match s.cues.inbox with
    | .notice (.ended slot _) _ :: rest => (s.withCueInbox rest).supersedeIf (Cue.ofSlot slot)
    | _ => s

/-- SLOT_FREED: every cue of the slot (R144). -/
def execSlotFreed (s : State) : Result :=
  whenOperating s fun s =>
    match s.cues.inbox with
    | .notice (.freed slot) _ :: rest => withdrawCues (Cue.ofSlot slot) (s.withCueInbox rest)
    | _ => s

/-- BOARD_CLEARED: every cue other than a NOTICE (R145). -/
def execBoardCleared (s : State) : Result :=
  whenOperating s fun s =>
    match s.cues.inbox with
    | .notice .cleared _ :: rest => withdrawCues (fun q => q.kind != .notice) (s.withCueInbox rest)
    | _ => s

/-! ### The control port commands (8.8) -/

/-- ANNOUNCE past its payload check (R153). -/
def announceServed (q : TextRef × Nat) (s : State) : Served :=
  if s.cues.safety.length < 16 then
    let h := s.cues.freeHandle
    let s := { s with cues := { s.cues with nextHandle := handleAfter h } }
    done (s.appendCue (noticeCue h q.1 q.2 s.cues.working)) [byte h]
  else refuse s .queueFull

def execAnnounce (c : Ctrl) (s : State) : Result :=
  serve c.port codeAnnounce (authorised c (parsed parseAnnounce announceServed)) s

def execReadCueStatus (c : Ctrl) (s : State) : Result :=
  serve c.port codeReadCueStatus (withoutPayload fun s => done s (cueStatusBytes s)) s

/-! ### The Cue Port commands (8.7) -/

/-- The head of a queue enters the playing position, and the play timer starts with PLAY TIMEOUT (R149). -/
def Cues.play (c : Cues) (k : CueClass) (q : Cue) (timeout : Nat) : Cues :=
  { c.setQueue k (c.queue k).tail with playing := some ⟨q, false, secondsLeft timeout⟩ }

/-- FETCH CUE (R149). -/
def fetchServed (s : State) : Served :=
  if s.cues.playing.isSome then refuse s .busy
  else
    match s.cues.pick s.settings with
    | (none, _) => done s [0]
    | (some k, c) =>
      match (c.queue k).head? with
      | none => done s [0]
      | some q => done { s with cues := c.play k q s.settings.playTimeout } (c.cueBytes q)

def execFetchCue (s : State) : Result := serve .cp codeFetchCue (withoutPayload fetchServed) s

/-- The playing position emptied; the play timer stops with it (R150). -/
def State.endPlaying (s : State) : State := { s with cues := { s.cues with playing := none } }

/-- The cue leaves the playing position (R150): a NOTICE that was played and has repeats left is appended again, or
dropped at a full SAFETY queue. -/
def finishCue (q : Cue) (played : Bool) (s : State) : State :=
  let s := s.endPlaying
  if q.kind = .notice ∧ played ∧ 0 < q.repeats then
    if s.cues.safety.length < 16 then s.appendCue { q with repeats := q.repeats - 1 }
    else (s.dropCue .safety).offerNext
  else s.offerNext

/-- CUE DONE past its payload check (R150). -/
def cueDoneServed (d : Nat × Bool) (s : State) : Served :=
  match s.cues.playing with
  | none => refuse s .noCue
  | some p => if p.cue.handle = d.1 then done (finishCue p.cue d.2 s) [] else refuse s .noCue

def execCueDone (s : State) : Result := serve .cp codeCueDone (parsed parseDone cueDoneServed) s

/-- PLAY_TIMER_EXPIRY: as CUE DONE with ABORTED, and counted (R151). -/
def execPlayTimerExpiry (s : State) : Result :=
  whenOperating s fun s =>
    match s.cues.playing with
    | none => s
    | some p =>
      if p.left = 0 then
        finishCue p.cue false { s with cues := { s.cues with playTimeouts := increment s.cues.playTimeouts } }
      else s

end Sys2Proof.Machine
end

