-- ==== Sys2Proof/Machine/Links.lean ====
section
/-! DEFINITION. The chain links (chapter 7): choosing frames, answers, the module status table and the end of a cycle. -/

namespace Sys2Proof.Machine

/-- Whether the head of a feed gives the image of row k (R125). -/
def feedImage (k : Nat) : List FeedPlace → Option LineImage
  | .image r image :: _ => if r = k then some image else none
  | _ => none

/-- The frame of a content for row k, with its check value: a free value (R123, log 8). -/
def ChainFrame.forRow (k : Nat) (x : FrameContent) : ChainFrame := ⟨x, Config.chainCheck k x⟩

/-- The link becomes ready for row k and chooses its frame from the head of the feed (R125); a head that is not the
image of row k is "Empty, or RESERVED for row k" (log 31). -/
def State.readyFor (s : State) (c : Chain) (k : Nat) : State :=
  let l := s.links[c]
  let w := s.composer.views[c].plan.width
  match feedImage k l.feed with
  | some image => s.setLink c { l with state := .rowOut k (.forRow k (.row w image)), feed := l.feed.drop 1 }
  | none =>
    if l.disabled then (s.setLink c { l with state := .rowOut k (.forRow k (.blank w)) }).passRow c k
    else (s.setLink c { l with state := .rowOut k (.forRow k .repeated), stale := increment l.stale }).passRow c k

/-- LEAD_END: the link becomes ready for row 1 (R124, R125). -/
def execLeadEnd (c : Chain) (s : State) : Result :=
  whenOperating s fun s => if s.links[c].state = .lead then s.readyFor c 1 else s

/-- CHAIN_FRAME_SENT: the answer window opens (R126). -/
def execChainFrameSent (c : Chain) (s : State) : Result :=
  whenOperating s fun s =>
    match s.links[c].state with
    | .rowOut k f => s.setLink c { s.links[c] with state := .answerWait k f }
    | .notStarted | .lead | .answerWait _ _ | .ended | .halted => s

/-! ### The close of a window (R126 to R128) -/

/-- The index of a row's module status entry. -/
def moduleIndex (k : Nat) : Fin 12 := ⟨(k - 1) % 12, Nat.mod_lt _ (by decide)⟩

/-- A row's entry after an answer, its absent run held at 3 (R127). -/
def ModuleStatus.after (m : ModuleStatus) : LastAnswer → ModuleStatus
  | .ok => ⟨.ok, 0⟩
  | .cellsDegraded => ⟨.cellsDegraded, 0⟩
  | .absent => ⟨.absent, min 3 (m.absentRun + 1)⟩

/-- Set or clear a chain's fault flag, and offer the change to the watches (R128, R182). -/
def State.setFault (s : State) (c : Chain) (b : Bool) : State := s.noted (s.setLink c { s.links[c] with fault := b })

/-- The update of row k's module status entry (R127). -/
def State.updateModule (s : State) (c : Chain) (k : Nat) (a : LastAnswer) : State :=
  let l := s.links[c]
  let m := l.modules[moduleIndex k]
  let l := { l with modules := put l.modules (moduleIndex k) (m.after a) }
  if a = .absent then
    if m.absentRun = 2 then
      ((s.setLink c { l with clean := false, absent := increment l.absent }).setFault c true).raiseRouted
        (.chainFault c k)
    else s.setLink c { l with clean := false }
  else s.setLink c l

/-- The end of a cycle (R128). -/
def State.endCycle (s : State) (c : Chain) : State :=
  let s := if s.links[c].clean then s.setFault c false else s
  let s := { s with composer := s.composer.markPassed c fun _ => true }
  let s := s.setView c { s.composer.views[c] with running := false }
  let l := s.links[c]
  s.setLink c (if l.disabled then { l with state := .halted, refresh := .stopped } else { l with state := .ended })

/-- The close of the answer window of row k (R126): the entry's update, then the next row or the end of the cycle. -/
def State.closeWindow (s : State) (c : Chain) (k : Nat) (a : LastAnswer) : State :=
  let s := s.updateModule c k a
  if k < s.links[c].rowCount then s.readyFor c (k + 1) else s.endCycle c

/-- What a module's status says as a last answer. -/
def answerOf : AnswerStatus → LastAnswer
  | .ok => .ok
  | .cellsDegraded => .cellsDegraded

/-- MODULE_ANSWER: a valid answer, "inside the answer window of the row awaited, with a matching check value and the row
number awaited", closes the window; "Any other answer is discarded" (R123, R126). -/
def execModuleAnswer (c : Chain) (row : Nat) (status : AnswerStatus) (checkGood : Bool) (s : State) : Result :=
  whenOperating s fun s =>
    match s.links[c].state with
    | .answerWait k _ => if checkGood ∧ row = k then s.closeWindow c k (answerOf status) else s
    | .notStarted | .lead | .rowOut _ _ | .ended | .halted => s

/-- ANSWER_WINDOW_EXPIRY: the row is ABSENT (R126). -/
def execAnswerWindowExpiry (c : Chain) (s : State) : Result :=
  whenOperating s fun s =>
    match s.links[c].state with
    | .answerWait k _ => s.closeWindow c k .absent
    | .notStarted | .lead | .rowOut _ _ | .ended | .halted => s

/-- REFRESH_TIMER_EXPIRY: the timer is RUN_OUT; in ENDED the cycle start is then taken by its own row, CYCLE_START
(R124, log 22). -/
def execRefreshTimerExpiry (c : Chain) (s : State) : Result :=
  whenOperating s fun s =>
    if s.links[c].refresh = .running 0 then s.setLink c { s.links[c] with refresh := .runOut } else s

end Sys2Proof.Machine
end

