-- ==== Sys2Proof/Machine/PortOps.lean ====
section
/-! DEFINITION. The port lines (chapter 10, 10.2 and 10.3): the frame receiver, taking a valid frame for service, and
the reply frame. -/

namespace Sys2Proof.Machine

def sync : Byte := 0xA5

/-- What one byte does to a receiver (R174): it goes on, or it ends the frame. -/
inductive Received where
  /-- The frame, or the hunt, goes on. -/
  | going (r : Receiver)
  /-- The frame is discarded and counted: LEN above 64, or a bad CRC. -/
  | bad
  /-- The frame is complete with a good CRC. -/
  | complete (unit code : Byte) (payload : List Byte)
deriving DecidableEq, Repr

/-- Judge a complete frame (R174): `bytes` are UNIT, LEN, CMD, the payload and the two CRC bytes. -/
def judgeFrame (bytes : List Byte) : Received :=
  let body := bytes.take (bytes.length - 2)
  if be16 (crc16 body).toNat = bytes.drop (bytes.length - 2) then
    .complete (bytes.getD 0 0) (bytes.getD 2 0) (body.drop 3)
  else .bad

/-- One byte in IN_FRAME: LEN is judged at its own byte, the frame at its last CRC byte (R174). -/
def collectByte (bytes : List Byte) (b : Byte) : Received :=
  let all := bytes ++ [b]
  if all.length = 2 ∧ 64 < b.toNat then .bad
  else if 2 ≤ all.length ∧ all.length = byteAt all 1 + 5 then judgeFrame all
  else .going (.inFrame all)

/-- One byte at a receiver: in HUNT, 0xA5 begins a frame and "any other byte is discarded and not counted" (R174). -/
def Receiver.take (r : Receiver) (b : Byte) : Received :=
  match r with
  | .hunt => .going (if b = sync then .inFrame [] else .hunt)
  | .inFrame bytes => collectByte bytes b

/-- A port's receiver replaced. -/
def State.setReceiver (s : State) (p : Port) (r : Receiver) : State := s.setPort p { s.port p with receiver := r }

/-- A frame in progress discarded and counted, the receiver back in HUNT (R173, R174). -/
def State.discardFrame (s : State) (p : Port) : State :=
  s.setPort p { s.port p with receiver := .hunt, badFrames := increment (s.port p).badFrames }

/-- A valid frame on the holder's port restarts the holder silence timer, "whether it is then served or overrun" (R174,
R77). -/
def State.restartSilence (s : State) (p : Port) : State :=
  match s.arbiter.holder with
  | some h =>
    if h.port = p then
      { s with arbiter := { s.arbiter with silence := .running (secondsLeft s.settings.holdSilence) } }
    else s
  | none => s

/-- A valid frame (R175): taken for service while IDLE, and refused BAD_COMMAND by the port itself where its code is not
in the table or not allowed here; discarded and counted while SERVING. -/
def State.takeFrame (s : State) (p : Port) (code : Byte) (payload : List Byte) : State :=
  match (s.port p).service with
  | .idle =>
    s.setService p (.serving code payload (if codeAllowed p code then .waiting else .replied ⟨.badCommand, []⟩))
  | .serving _ _ _ => s.setPort p { s.port p with overruns := increment (s.port p).overruns }

/-- One byte of FRAME_RECEIVED at a port. -/
def State.receiveByte (p : Port) (s : State) (b : Byte) : State :=
  match (s.port p).receiver.take b with
  | .going r => s.setReceiver p r
  | .bad => s.discardFrame p
  | .complete unit code payload =>
    let s := s.setReceiver p .hunt
    if unit.toNat = s.ident.straps.unit.toNat then (s.restartSilence p).takeFrame p code payload else s

/-- The frame that carries a reply (R176, 10.8): SYNC, UNIT, LEN, STATUS, payload, CRC. -/
def replyFrame (unit : BitVec 4) (r : Reply) : List Byte :=
  let body := [byte unit.toNat, byte r.payload.length, r.status.code] ++ r.payload
  [sync] ++ body ++ be16 (crc16 body).toNat

/-- The reply a port is sending, if any. -/
def PortState.reply (p : PortState) : Option Reply :=
  match p.service with
  | .serving _ _ (.replied r) => some r
  | _ => none

/-- The frame a port is sending, if any: its reply, with the unit number of the straps in UNIT (R176). -/
def State.sentFrame (s : State) (p : Port) : Option (List Byte) :=
  (s.port p).reply.map (replyFrame s.ident.straps.unit)

/-- The line rate of all three ports (R173). -/
def baudRate (st : Straps) : Nat :=
  match st.rateFirst, st.rateSecond with
  | false, false => 57600
  | true, false => 115200
  | false, true => 230400
  | true, true => 460800

end Sys2Proof.Machine
end

