-- ==== Sys2Proof/Machine/Ports.lean ====
section
/-! DEFINITION. The Link Ports' steps (chapter 10): arrivals on the line, the end of a reply, and the port commands. -/

namespace Sys2Proof.Machine

/-! ### The line (R173 to R175) -/

/-- FRAME_RECEIVED: the bytes arrive at the receiver one after another (R174, log 15). -/
def execFrameReceived (p : Port) (bytes : List Byte) (s : State) : Result :=
  whenOperating s fun s => bytes.foldl (State.receiveByte p) s

/-- FRAME_GAP_EXPIRY: "More than 5 ms from the end of one byte of the frame to the start of the next" (R174). -/
def execFrameGapExpiry (p : Port) (s : State) : Result :=
  whenOperating s fun s =>
    match (s.port p).receiver with
    | .inFrame _ => s.discardFrame p
    | .hunt => s

/-- STOP_BIT_ERROR: counted in IN_FRAME, ignored in HUNT (R173). -/
def execStopBitError (p : Port) (s : State) : Result :=
  whenOperating s fun s =>
    match (s.port p).receiver with
    | .inFrame _ => s.discardFrame p
    | .hunt => s

/-- BREAK: the receiver returns to HUNT and a frame in progress is discarded without counting (R173). -/
def execBreak (p : Port) (s : State) : Result := whenOperating s fun s => s.setReceiver p .hunt

/-- Whether a notification that a port's command handed is still to be taken (R26, log 14). -/
def Cues.owes (c : Cues) (p : Port) : Bool :=
  c.inbox.any fun m => match m with
    | .notice _ (some o) => decide (o.port = p)
    | .notice _ none => false
    | .rebase => false

/-- REPLY_SENT: the last byte of the reply has been sent, and the service state becomes IDLE (R175). -/
def execReplySent (p : Port) (s : State) : Result :=
  whenOperating s fun s =>
    match (s.port p).service with
    | .serving _ _ (.replied _) => if s.cues.owes p then s else s.setService p .idle
    | .serving _ _ .waiting | .serving _ _ .taken | .idle => s

/-! ### The port commands (R178, R179, R181) -/

/-- READ EVENT: the entry of lowest code, the number left after it and its detail; it is removed (R178). -/
def readEventServed (p : Port) (s : State) : Served :=
  match (s.port p).events with
  | [] => done s [0, 0]
  | e :: rest => done (s.setPort p ((s.port p).withEvents rest)) ([byte e.code, byte rest.length] ++ e.detail)

def execReadEvent (p : Port) (s : State) : Result :=
  serve p codeReadEvent (withoutPayload (readEventServed p)) s

/-- The enables of codes 1 to 18 replaced by a mask. -/
def newEnables (old : BitVec 35) (mask : BitVec 18) : BitVec 35 :=
  (old &&& ~~~0x7FFFE#35) ||| (mask.setWidth 35 <<< 1)

/-- SET EVENT ENABLE: "A kind turned OFF has its pending entry removed in the same change, and the attention line
follows" (R179). -/
def setEnablesServed (c : Ctrl) (mask : BitVec 18) (s : State) : Served :=
  let ps := s.port c.port
  let en := newEnables ps.enables mask
  done (s.setPort c.port
    (({ ps with enables := en } : PortState).withEvents (ps.events.filter fun e => en.getLsbD e.code))) []

def execSetEventEnable (c : Ctrl) (s : State) : Result :=
  serve c.port codeSetEventEnable (parsed parseEnables (setEnablesServed c)) s

/-- POST WATCH (R181): an empty mask removes the watch; a watch with a differing item fires at once; else it is kept. -/
def postWatchServed (c : Ctrl) (w : Watch) (s : State) : Served :=
  if w.mask = 0 then done (s.setPort c.port { s.port c.port with watch := none }) []
  else
    let items := w.differing (statusVector s)
    if items = 0 then done (s.setPort c.port { s.port c.port with watch := some w }) []
    else done (s.fireWatch c items) []

def execPostWatch (c : Ctrl) (s : State) : Result :=
  serve c.port codePostWatch (parsed parseWatch (postWatchServed c)) s

end Sys2Proof.Machine
end

