-- ==== Sys2Proof/Machine/Startup.lean ====
section
/-! DEFINITION. Reset, supplies and the start-up sequence (chapter 11, 11.3 and 11.4). -/

namespace Sys2Proof.Machine

/-! ### Reset -/

/-- The Text Store after a hardware reset (R99): rows keep content and check value; a row commit in flight is cut off
and its row left FAILING. DESIGN CHOICE (log 43): "whatever part of the write had been done" (R99), the stored cells are held
as they were; every reader of a FAILING row is given spaces, and the next successful commit writes all 16 cells. -/
def TextStore.afterReset (t : TextStore) : TextStore :=
  let kept : TextStore := ⟨t.cells, t.failing, Staging.reset, Staging.reset, none⟩
  match t.engine with
  | some ⟨.row r _, _⟩ => kept.failRow r.val
  | some ⟨.config _, _⟩ => kept
  | none => kept

/-- The stored block after a hardware reset: failing its CRC where a configuration commit was in flight (R99, R187).
DESIGN CHOICE (log 43): its bytes are held as they were. -/
def StoredBlock.afterReset (b : StoredBlock) (t : TextStore) : StoredBlock :=
  match t.engine with
  | some ⟨.config _, _⟩ => { b with cutOff := true }
  | some ⟨.row _ _, _⟩ => b
  | none => b

/-- The part held in reset: every block in its after-reset state, the nonvolatile rows, the stored block and the
retention area kept (R20, R53, R84, R99, R122, R132, R156, R171, R185, R190). -/
def State.afterReset (s : State) : State :=
  { State.reset with
    pending := s.pending
    power := { s.power with held := true, startup := some .straps }
    stored := s.stored.afterReset s.store
    retention := s.retention
    store := s.store.afterReset }

/-- The power after a reset by a cause: a power-on brings both supplies (log 25). -/
def Power.caused (p : Power) : ResetCause → Power
  | .powerOn => { p with main := true, backup := true }
  | .resetInput => p

/-- HARDWARE_RESET: "a power-on or an assertion of the RESET input" (R190). -/
def execHardwareReset (cause : ResetCause) (s : State) : Result :=
  .next ({ s with power := s.power.caused cause } : State).afterReset

/-! ### Supplies (R189, R190) -/

/-- "Where both supplies are absent together, the content is lost, and the area is found invalid" (R189). -/
def State.checkRetention (s : State) : State :=
  if s.power.main || s.power.backup then s else { s with retention := { s.retention with valid := false } }

/-- MAIN_SUPPLY_LOSS: the part is held, with what a reset cuts off cut off (R190, log 26). -/
def execMainSupplyLoss (s : State) : Result :=
  .next ({ s with power := { s.power with main := false } } : State).afterReset.checkRetention

/-- BACKUP_SUPPLY_LOSS (R189). -/
def execBackupSupplyLoss (s : State) : Result :=
  .next ({ s with power := { s.power with backup := false } } : State).checkRetention

/-! ### The start-up sequence (R190) -/

/-- Step 2: the active configuration formed from the stored block (R188). -/
def State.loadSettings (s : State) : State :=
  if s.stored.intact then
    { s with settings := s.stored.settings, ident := { s.ident with configDefaulted := false } }
  else
    ({ s with settings := defaultSettings, ident := { s.ident with configDefaulted := true } } : State).raiseRouted
      .configDefaulted

/-- A line restored from its retention entry (R171). -/
def restoredLine (valid enabled : Bool) (e : RetentionEntry) : LineRecord where
  state := if enabled then (if valid && !e.inFlight then .noTime else .unknown) else .off
  shown := if valid && !e.inFlight then some e.shown else none
  polarity := if valid then e.polarity else .positive
  impulse := none
  offRequested := false
  spacing := .stopped

/-- Step 4: the retention area checked, the mark recorded, the lines restored, and an invalid area rewritten (R189,
R171). -/
def State.restoreLines (s : State) : State :=
  let valid := s.retention.valid
  { s with
    ident := { s.ident with retentionValid := valid }
    clock := { s.clock with
      lines := Vector.ofFn fun l : Fin 4 =>
        restoredLine valid s.settings.lines[l].enabled s.retention.entries[l] }
    retention := if valid then s.retention else ⟨Vector.replicate 4 RetentionEntry.rewritten, true⟩ }

/-- The four chains. -/
def allChains : List Chain := [0, 1, 2, 3]

/-- One step of the start-up sequence (R190): straps, configuration and credits, row examination, lines, opening of the
ports, first cycle starts. The next step is then due. -/
def State.startStep (s : State) (straps : Straps) : StartStage → State
  | .straps =>
    { s with ident := { s.ident with straps := straps }, power := { s.power with startup := some .configuration } }
  | .configuration =>
    let s := s.loadSettings
    { s with cues := s.cues.reload s.settings, power := { s.power with startup := some .rows } }
  | .rows =>
    { s with
      ident := { s.ident with failingRows := s.store.failing.length }
      power := { s.power with startup := some .lines } }
  | .lines =>
    let s := s.restoreLines
    { s with power := { s.power with startup := some .ports } }
  | .ports => { s with power := { s.power with startup := some .cycles } }
  | .cycles =>
    let s := allChains.foldl State.startCycle s
    { s with power := { s.power with startup := none } }

/-- The steps of the sequence in its order. -/
def allStages : List StartStage := [.straps, .configuration, .rows, .lines, .ports, .cycles]

/-- The place of a step in the sequence (R190). -/
def stageNumber : StartStage → Nat
  | .straps => 1
  | .configuration => 2
  | .rows => 3
  | .lines => 4
  | .ports => 5
  | .cycles => 6

/-- The sequence goes on from the step that is next through the step of a run (log 23). -/
def State.startUp (s : State) (run : StartRun) : State :=
  allStages.foldl
    (fun s g =>
      if s.power.startup = some g ∧ stageNumber g ≤ stageNumber run.upTo then s.startStep run.straps g else s) s

/-- RESET_END: with main supply present the reset ends and the start-up sequence runs through the run's step; sent
again, the row carries the sequence on (R190, log 23). -/
def execResetEnd (run : StartRun) (s : State) : Result :=
  .next <|
    if s.power.held then
      if s.power.main then
        ({ s with power := { s.power with held := false, startup := some .straps } } : State).startUp run
      else s
    else s.startUp run

end Sys2Proof.Machine
end

