-- ==== Sys2Proof/Machine/Table.lean ====
section
/-! DEFINITION. The Departure Table's commands (chapter 2) and what it takes from the Time Base. -/

namespace Sys2Proof.Machine

/-! ### Minute events and the rebase stage -/

/-- The table takes a minute event whole (R30): working minute and mode (R29), every record evaluated in list order,
the conflict check, BOARD_CHANGED (R31). -/
def tableMinute (n : Nat) (rest : List MinuteItem) (s : State) : State :=
  let t := { s.table with working := n, timed := true, inbox := rest }
  let (t', ns, changed) := t.order.foldl (evaluateSlot s.settings n) (t, [], [])
  let s' := ({ s with table := t' }.hand none ns).conflictCheck
  match lowestSlot changed with
  | none => s'
  | some i => s'.raiseRouted (.boardChanged i)

/-- TABLE_MINUTE_EVENT: take the minute event at the head of the table's inbox (R3, R30). -/
def execTableMinuteEvent (s : State) : Result :=
  whenOperating s fun s =>
    match s.table.inbox with
    | .minute n :: rest => tableMinute n rest s
    | _ => s

/-- A record's minutes rebased (R24). -/
def Record.rebase (r : Record) : Record :=
  { r with
    sched := rebased r.sched
    expected := r.expected.map rebased
    previous := r.previous.map fun p => (p.1, rebased p.2)
    state := match r.state with
      | .gone g => .gone (rebased g)
      | .cancelled c => .cancelled (rebased c)
      | .waiting => .waiting
      | .called => .called
      | .closing => .closing }

/-- Stage 1 of the rollover at the table (R24, R5): every minute of every record, the working minute, and the list
re-sorted, as one change. -/
def Table.rebase (t : Table) : Table :=
  let u := { t with slots := mapAll (Option.map Record.rebase) t.slots, working := t.working - 1440 }
  { u with order := t.order.foldr u.insertOrdered [] }

/-- TABLE_REBASE: stage 1; the composer's stage is then due, and the scheduler's rebase takes its place among the
table's notifications (R4, R138). -/
def execTableRebase (s : State) : Result :=
  whenOperating s fun s =>
    match s.table.inbox with
    | .rebase :: rest =>
      { s with
        table := { s.table.rebase with inbox := rest }
        composer := { s.composer with inbox := s.composer.inbox ++ [.rebase] }
        cues := { s.cues with inbox := s.cues.inbox ++ [.rebase] }
        time := { s.time with rollover := some .composer } }
    | _ => s

/-! ### Inserting (2.7) -/

/-- The record INSERT DEPARTURE begins with (R37). -/
def InsertRequest.record (q : InsertRequest) : Record where
  code := q.code
  state := .waiting
  sched := q.sched
  expected := (storedTime q.sched q.expected).1
  clamped := (storedTime q.sched q.expected).2
  platform := q.platform
  previous := none
  destination := q.destination
  via := q.via
  remark := q.remark
  sector := q.sector
  mask := q.mask
  callIssued := false
  closingIssued := false
  lastDelay := none
  conflict := false

/-- Whether a scheduled minute lies outside the insert window (R36). -/
def Table.outsideWindow (t : Table) (sched : Int) : Bool :=
  decide (sched < 0) || decide (1679 < sched) || (t.timed && decide (sched < t.working - 15))

/-- INSERT DEPARTURE past its payload check (R36, R37): the delay announcement runs where an expected minute is
given. -/
def insertServed (c : Ctrl) (q : InsertRequest) (s : State) : Served :=
  if s.table.outsideWindow q.sched then refuse s .outOfWindow
  else if (s.table.findCode q.code).isSome then refuse s .duplicate
  else
    match s.table.lowestFree with
    | none => refuse s .tableFull
    | some i =>
      let announced :=
        if q.expected.isSome then delayAnnouncement s.settings s.table.working i q.record else (q.record, [])
      Change.carryOut ⟨announced.1, [], false, none, announced.2, true⟩ c i s

def execInsertDeparture (c : Ctrl) (s : State) : Result :=
  serve c.port codeInsertDeparture (authorised c (parsed parseInsert (insertServed c))) s

/-! ### Editing (2.8) -/

/-- AMEND EXPECTED (R38). -/
def amendServed (c : Ctrl) (q : List Byte × Option Int) (s : State) : Served :=
  withRecord s q.1 fun i r =>
    if !r.state.live then refuse s .wrongState
    else
      let stored := storedTime r.sched q.2
      let r' := { r with expected := stored.1, clamped := stored.2 }
      if r'.effective = r.effective then Change.carryOut ⟨r', [], false, none, [], true⟩ c i s
      else
        let announced := delayAnnouncement s.settings s.table.working i r'
        Change.carryOut ⟨announced.1, [], true, none, announced.2, true⟩ c i s

def execAmendExpected (c : Ctrl) (s : State) : Result :=
  serve c.port codeAmendExpected (authorised c (parsed (parseCodeAnd 11 optMinuteAt) (amendServed c))) s

/-- What ASSIGN PLATFORM does to a live record: a first assignment (R39), a change (R40) or a clearing (R41). -/
def platformChange (r : Record) (i : Slot) (given : Option Nat) (working : Int) : Change :=
  match r.platform, given with
  | some p, some q =>
    let r' := { r with platform := some q, previous := some (p, working) }
    ⟨r', [], true, none, if inMask r.mask .platformChange then [r'.issue i .platformChange (some p) working] else [],
      true⟩
  | some _, none =>
    ⟨{ r with platform := none, previous := none }, [.call, .closing, .platformChange], true, none, [], true⟩
  | none, given => ⟨{ r with platform := given }, [], true, none, [], true⟩

/-- ASSIGN PLATFORM (R39): giving the platform already held changes nothing. -/
def assignServed (c : Ctrl) (q : List Byte × Option Nat) (s : State) : Served :=
  withRecord s q.1 fun i r =>
    if !r.state.live then refuse s .wrongState
    else if r.platform = q.2 then done s []
    else (platformChange r i q.2 s.table.working).carryOut c i s

def execAssignPlatform (c : Ctrl) (s : State) : Result :=
  serve c.port codeAssignPlatform (authorised c (parsed (parseCodeAnd 10 platformAt) (assignServed c))) s

/-- A command that changes a record without evaluation or conflict check (R42 to R44). -/
def editOnly (c : Ctrl) (i : Slot) (r : Record) (ns : List Notification) (s : State) : Served :=
  done ({ s with table := s.table.hold i r }.hand (some c) ns) []

/-- SET REMARK: a refresh is handed where the remark held differs from the one given (R42). -/
def remarkServed (c : Ctrl) (q : List Byte × Option TextRef) (s : State) : Served :=
  withRecord s q.1 fun i r =>
    let r' := { r with remark := q.2 }
    editOnly c i r' (if r.remark = q.2 then [] else [.refresh (r'.refresh i)]) s

def execSetRemark (c : Ctrl) (s : State) : Result :=
  serve c.port codeSetRemark (authorised c (parsed (parseCodeAnd 12 optRefAt) (remarkServed c))) s

/-- SET SECTOR: sets the sector and hands a refresh (R43). -/
def sectorServed (c : Ctrl) (q : List Byte × Fin 4) (s : State) : Served :=
  withRecord s q.1 fun i r => editOnly c i { r with sector := q.2 } [.refresh (r.refresh i)] s

def execSetSector (c : Ctrl) (s : State) : Result :=
  serve c.port codeSetSector (authorised c (parsed (parseCodeAnd 10 sectorAt) (sectorServed c))) s

/-- The kinds in one mask and not in another. -/
def removedKinds (old new : BitVec 5) : List CueKind :=
  [.call, .closing, .platformChange, .delay, .cancel].filter fun k => inMask old k && !inMask new k

/-- SET ANNOUNCE MASK: withdraws the cues of the kinds removed, then hands a refresh (R44). -/
def maskServed (c : Ctrl) (q : List Byte × BitVec 5) (s : State) : Served :=
  withRecord s q.1 fun i r =>
    editOnly c i { r with mask := q.2 } (withdrawal i (removedKinds r.mask q.2) ++ [.refresh (r.refresh i)]) s

def execSetAnnounceMask (c : Ctrl) (s : State) : Result :=
  serve c.port codeSetAnnounceMask (authorised c (parsed (parseCodeAnd 10 maskAt) (maskServed c))) s

/-! ### Ending and removing (2.9) -/

/-- CANCEL DEPARTURE (R45). -/
def cancelServed (c : Ctrl) (code : List Byte) (s : State) : Served :=
  withRecord s code fun i r =>
    if !r.state.live then refuse s .wrongState
    else
      let r' := { r with state := .cancelled s.table.working }
      Change.carryOut
        ⟨r', [.call, .closing, .delay, .platformChange], false, some .cancelled,
          if inMask r.mask .cancel then [r'.issue i .cancel none s.table.working] else [], false⟩ c i s

def execCancelDeparture (c : Ctrl) (s : State) : Result :=
  serve c.port codeCancelDeparture (authorised c (parsed parseCode (cancelServed c))) s

/-- REINSTATE (R46). -/
def reinstateServed (c : Ctrl) (code : List Byte) (s : State) : Served :=
  withRecord s code fun i r =>
    match r.state with
    | .cancelled _ =>
      Change.carryOut
        ⟨{ r with state := .waiting, callIssued := false, closingIssued := false }, [.cancel], false, none, [], true⟩
        c i s
    | .waiting | .called | .closing | .gone _ => refuse s .wrongState

def execReinstate (c : Ctrl) (s : State) : Result :=
  serve c.port codeReinstate (authorised c (parsed parseCode (reinstateServed c))) s

/-- Every kind a record's cues may have. -/
def everyKind : List CueKind := [.call, .closing, .platformChange, .delay, .cancel]

/-- MARK DEPARTED (R47). -/
def departedServed (c : Ctrl) (code : List Byte) (s : State) : Served :=
  withRecord s code fun i r =>
    if !r.state.live then refuse s .wrongState
    else
      Change.carryOut ⟨{ r with state := .gone s.table.working }, everyKind, false, some .gone, [], false⟩ c i s

def execMarkDeparted (c : Ctrl) (s : State) : Result :=
  serve c.port codeMarkDeparted (authorised c (parsed parseCode (departedServed c))) s

/-- REMOVE DEPARTURE frees the slot at once in every record state (R48, R22). -/
def removeServed (c : Ctrl) (code : List Byte) (s : State) : Served :=
  withRecord s code fun i _ => done ({ s with table := s.table.free i }.hand (some c) [.freed i]) []

def execRemoveDeparture (c : Ctrl) (s : State) : Result :=
  serve c.port codeRemoveDeparture (authorised c (parsed parseCode (removeServed c))) s

/-- CLEAR BOARD: every slot freed, the list and the pair set emptied, "board cleared" handed, BOARD_CHANGED raised with
the lowest slot that was occupied, or 0 (R49). -/
def clearBoardServed (c : Ctrl) (s : State) : Served :=
  let lowest := (allSlots.find? fun i => s.table.slots[i].isSome).getD 0
  let t := { s.table with slots := Vector.replicate 96 none, order := [], pairs := [] }
  done (({ s with table := t }.hand (some c) [.cleared]).raiseRouted (.boardChanged lowest)) []

def execClearBoard (c : Ctrl) (s : State) : Result :=
  serve c.port codeClearBoard (authorised c (withoutPayload (clearBoardServed c))) s

/-! ### Reading (2.10) -/

/-- Record states as numbered in 10.8. -/
def RecordState.number : RecordState → Byte
  | .waiting => 0
  | .called => 1
  | .closing => 2
  | .gone _ => 3
  | .cancelled _ => 4

/-- Yes and no answers packed from bit 7 down. -/
def packFlags (bs : List Bool) : Byte := byte (bs.foldl (fun acc b => acc * 2 + (if b then 1 else 0)) 0)

/-- The position of a slot in the departure list, counted from 1 (R50). -/
def Table.position (t : Table) (i : Slot) : Nat := t.order.idxOf i + 1

/-- The 39 bytes of a record (10.8, Record). DESIGN CHOICE (log 42), unsafe: the "(0 if absent)" of bytes 20 and 21 is read
as said of both platforms, so an absent platform is sent as 0, not 0xFF. -/
def Table.recordBytes (t : Table) (i : Slot) (r : Record) : List Byte :=
  [byte i.val, byte (t.position i), byte r.code.length] ++ padTo 8 r.code ++
  [r.state.number,
   packFlags [r.expected.isSome, r.clamped, r.previous.isSome, r.via.isSome, r.remark.isSome, r.lastDelay.isSome,
     r.callIssued, r.closingIssued],
   flag r.conflict] ++
  beInt r.sched ++ beInt (r.expected.getD 0) ++ beInt r.sortMinute ++
  [byte (r.platform.getD 0), byte ((r.previous.map Prod.fst).getD 0)] ++
  beOptMinute (r.previous.map Prod.snd) ++
  beInt (match r.state with | .cancelled m => m | .gone m => m | .waiting | .called | .closing => 0) ++
  [byte r.sector.val, byte r.mask.toNat] ++
  (match r.lastDelay with | some d => beInt d | none => openBytes .lastDelay) ++
  refBytes r.destination ++ optRefBytes r.via ++ optRefBytes r.remark

/-- READ RECORD, named by service code or by slot (R50). -/
def readRecordServed (q : RecordName) (s : State) : Served :=
  match q with
  | .code code => withRecord s code fun i r => done s (s.table.recordBytes i r)
  | .slot i =>
    match s.table.slots[i] with
    | some r => done s (s.table.recordBytes i r)
    | none => refuse s .noRecord

def execReadRecord (c : Ctrl) (s : State) : Result :=
  serve c.port codeReadRecord (parsed parseRecordName readRecordServed) s

/-- One entry of READ LIST: slot, state, sort minute, packed code (10.8). -/
def Table.entryBytes (t : Table) (i : Slot) : List Byte :=
  match t.slots[i] with
  | some r => [byte i.val, r.state.number] ++ beInt r.sortMinute ++ packCode r.code
  | none => []

/-- READ LIST: the list length and up to 24 entries from a start position (R51). -/
def readListServed (start : Nat) (s : State) : Served :=
  let entries := (s.table.order.drop (start - 1)).take 24
  done s ([byte s.table.order.length, byte entries.length] ++ entries.flatMap s.table.entryBytes)

def execReadList (c : Ctrl) (s : State) : Result :=
  serve c.port codeReadList (parsed parseStart readListServed) s

end Sys2Proof.Machine
end

