-- ==== Sys2Proof/Machine/Text.lean ====
section
/-! DEFINITION. The Text Store (chapter 5): staging, row commits through the commit engine, and reading. -/

namespace Sys2Proof.Machine

/-! ### Staging (5.2) -/

/-- SET TEXT ADDRESS: "The loaded cells are kept, with their codes and their marks" (R88). -/
def addressServed (c : Ctrl) (q : Fin 512 × Fin 16) (s : State) : Served :=
  done (s.setStaging c { s.staging c with row := q.1, column := .cell q.2 }) []

def execSetTextAddress (c : Ctrl) (s : State) : Result :=
  serve c.port codeSetTextAddress (authorised c (parsed parseAddress (addressServed c))) s

/-- The column after a code has been stored in a cell: "END after a code has been loaded into cell 15" (R89). -/
def nextColumn (i : Fin 16) : Column := if h : i.val + 1 < 16 then .cell ⟨i.val + 1, h⟩ else .atEnd

/-- Store one code in a cell: it is marked loaded and the column moves on (R89). -/
def Staging.store (b : Staging) (i : Fin 16) (x : Byte) : Staging :=
  { b with cells := put b.cells i x, loaded := put b.loaded i true, column := nextColumn i }

/-- The next row, "from 511 to 0" (R89). -/
def nextRow (r : Fin 512) : Fin 512 := if h : r.val + 1 < 512 then ⟨r.val + 1, h⟩ else 0

/-- Write one code at the column as it stands (R89): at END the column wraps, and the row advances where the option
says so. -/
def Staging.load (advance : Bool) (b : Staging) (x : Byte) : Staging :=
  match b.column with
  | .cell i => b.store i x
  | .atEnd => ({ b with row := if advance then nextRow b.row else b.row } : Staging).store 0 x

/-- A column on the wire: 16 for END (10.8). -/
def Column.number : Column → Nat
  | .cell i => i.val
  | .atEnd => 16

/-- LOAD TEXT (R89); the reply carries the target row and the column after the last code. -/
def loadServed (c : Ctrl) (q : Bool × List Byte) (s : State) : Served :=
  let b := q.2.foldl (Staging.load q.1) (s.staging c)
  done (s.setStaging c b) (be16 b.row.val ++ [byte b.column.number])

def execLoadText (c : Ctrl) (s : State) : Result :=
  serve c.port codeLoadText (authorised c (parsed parseLoad (loadServed c))) s

/-- DISCARD STAGING (R90). -/
def discardServed (c : Ctrl) (s : State) : Served := done (s.setStaging c (s.staging c).emptied) []

def execDiscardStaging (c : Ctrl) (s : State) : Result :=
  serve c.port codeDiscardStaging (authorised c (withoutPayload (discardServed c))) s

/-! ### Row commits (5.3, 5.4) -/

/-- The new content of a row, formed at the acceptance: each loaded cell gives its staged code, each other cell keeps
what the row shows, which is a space where the row is FAILING (R93). -/
def Staging.content (b : Staging) (t : TextStore) : List Byte :=
  (List.finRange 16).map fun i => if b.loaded[i] then b.cells[i] else t.visible (b.row.val * 16 + i.val)

/-- Protection ON: the PROT strap as sampled (R86). -/
def State.protection (s : State) : Bool := s.ident.straps.prot

/-- Whether a row is protected: "protection is ON and the row lies in 0 to 63" (R96). -/
def State.rowProtected (s : State) (r : Nat) : Bool := s.protection && decide (r ≤ 63)

/-- COMMIT ROW past the authority and payload checks (R92). -/
def commitRowServed (c : Ctrl) (s : State) : Served :=
  let b := s.staging c
  if s.store.engine.isSome then refuse s .busy
  else if s.rowProtected b.row.val then refuse s .isProtected
  else if b.loaded.toList.all (fun x => !x) then refuse s .badArgument
  else
    let s := { s with store := { s.store with engine := some ⟨.row b.row (b.content s.store), c⟩ } }
    (s.setStaging c b.emptied, some ⟨.accepted, be16 b.row.val⟩)

def execCommitRow (c : Ctrl) (s : State) : Result :=
  serve c.port codeCommitRow (authorised c (withoutPayload (commitRowServed c))) s

/-- ROW_COMMIT_COMPLETION (R91, R93, R94): by success the row is replaced and VALID, by a verify failure it keeps its
content and standing; the engine becomes IDLE in the same change, then the event is raised to the issuing port. -/
def execRowCommitCompletion (success : Bool) (s : State) : Result :=
  whenOperating s fun s =>
    match s.store.engine with
    | some ⟨.row r cells, issuer⟩ =>
      if success then
        ({ s with store := { s.store.replaceRow r.val cells with engine := none } } : State).raise issuer.port
          (.commitDone (.row r.val))
      else ({ s with store := { s.store with engine := none } } : State).raise issuer.port (.commitFailed (.row r.val))
    | _ => s

/-! ### Reading (5.5) -/

/-- Whether the engine is BUSY with a row commit to a row (R96). -/
def TextStore.committing (t : TextStore) (r : Nat) : Bool :=
  match t.engine with
  | some ⟨.row r' _, _⟩ => r'.val == r
  | _ => false

/-- The 20 bytes of READ TEXT ROW (R96, 10.8). -/
def textRowBytes (r : Fin 512) (s : State) : List Byte :=
  be16 r.val ++ s.store.rowCells r.val ++
    [flag (s.store.failing.contains r.val),
     packFlags2 (s.store.committing r.val) (s.rowProtected r.val)]
where
  /-- Bit 1 and bit 0 of a byte. -/
  packFlags2 (b1 b0 : Bool) : Byte := byte ((if b1 then 2 else 0) + (if b0 then 1 else 0))

def execReadTextRow (p : Port) (s : State) : Result :=
  serve p codeReadTextRow (parsed parseRow fun r s => done s (textRowBytes r s)) s

/-- ROW_STORAGE_FAULT: "its stored cells or check value no longer agree for any cause of the storage itself" (R85); the
rows are nonvolatile, so it may come while the part is held. DESIGN CHOICE (log 44): of the two it is the check value that is
taken to change, and the stored cells are held as they were. A row above 511 does not exist (log 37). -/
def execRowStorageFault (row : Nat) (s : State) : Result :=
  if row ≤ 511 then .next { s with store := s.store.failRow row } else .fault .noSuchRow

end Sys2Proof.Machine
end

