-- ==== Sys2Proof/Machine/Time.lean ====
section
/-! DEFINITION. The Time Base (chapter 1): counting, minute events and the rollover, holding, the minute pulse,
SET TIME and READ TIME. -/

namespace Sys2Proof.Machine

/-! ### Counting (R1, R2) -/

/-- "The Time Base reads the board minute as floor(S/60) in RUNNING and as h in HOLDING"; in UNSET it is reported as 0
(1.1). -/
def TimeBase.boardMinute (t : TimeBase) : Nat :=
  match t.state with
  | .unset => 0
  | .running => t.second / 60
  | .holding h => h

/-- The decision with which a second begins, made from Q as it stands (R1). -/
def TimeBase.beginSecond (t : TimeBase) : TimeBase :=
  let a := min t.slew.natAbs 16
  if t.slew > 0 then
    { t with adjustment := .shortened a, slew := t.slew - a, secondTicks := 0, completionDue := false }
  else if t.slew < 0 then
    { t with adjustment := .lengthened a, slew := t.slew + a, secondTicks := 0, completionDue := false }
  else { t with adjustment := .normal, secondTicks := 0, completionDue := false }

/-- How far the next tick arrival moves F: 2 on the first a of a SHORTENED second, 0 on the first a of a LENGTHENED
one, else 1 (R1). -/
def TimeBase.advance (t : TimeBase) : Nat :=
  match t.adjustment with
  | .normal => 1
  | .shortened a => if t.secondTicks < a then 2 else 1
  | .lengthened a => if t.secondTicks < a then 0 else 1

/-- A tick arrival at the count: it advances F, or, where F would pass 1023, makes the completion of the second due
(R1, log 11). In UNSET it leaves the count as it is. -/
def TimeBase.count (t : TimeBase) : TimeBase :=
  match t.state with
  | .unset => t
  | .running | .holding _ =>
    if t.tick + t.advance > 1023 then { t with secondTicks := t.secondTicks + 1, completionDue := true }
    else { t with tick := t.tick + t.advance, secondTicks := t.secondTicks + 1 }

/-- The time set to a second, with F and Q 0 and a new NORMAL second (R12 to R16); the second in progress is
abandoned. -/
def TimeBase.setSecond (t : TimeBase) (second : Nat) : TimeBase :=
  { t with second := second, tick := 0, slew := 0, adjustment := .normal, secondTicks := 0, completionDue := false }

/-- Change the time state, and offer the change to the watches (R19). -/
def State.setTimeState (s : State) (v : TimeState) : State :=
  s.noted { s with time := { s.time with state := v } }

/-- The completion of a second (R2): F to 0, S on by one, the next second begun; in RUNNING a new minute is delivered
and a wrap of S performs the rollover (R4); in HOLDING a completion that reaches h ends the hold (R7). -/
def completeSecond (s : State) : State :=
  let next := if s.time.second = 86399 then 0 else s.time.second + 1
  let t := ({ s.time with second := next, tick := 0 } : TimeBase).beginSecond
  let s' := { s with time := t }
  match s.time.state with
  | .unset => s
  | .running =>
    if s.time.second = 86399 then s'.post [.rollover, .minute 0]
    else if next / 60 ≠ s.time.second / 60 then s'.post [.minute (next / 60)]
    else s'
  | .holding h => if next / 60 = h then s'.setTimeState .running else s'

/-- SECOND_COMPLETION: taken where a tick arrival has made it due (R1, R2, log 11). -/
def execSecondCompletion (s : State) : Result :=
  whenReleased s fun s => if s.time.completionDue then completeSecond s else s

/-! ### Tick arrivals -/

/-- Every timer of the part with a time left runs by one tick (log 9). -/
def State.runTimers (s : State) : State :=
  { s with
    arbiter := { s.arbiter with yield := s.arbiter.yield.tick, silence := s.arbiter.silence.tick }
    composer := { s.composer with
      views := mapAll (fun v : ChainView => { v with pageTimer := v.pageTimer.tick, partTimer := v.partTimer.tick })
        s.composer.views }
    links := mapAll (fun l : Link => { l with refresh := l.refresh.tick }) s.links
    cues := { s.cues with playing := s.cues.playing.map fun p => { p with left := p.left - 1000 } }
    clock := { s.clock with
      lines := mapAll (fun l : LineRecord => { l with spacing := l.spacing.tick }) s.clock.lines } }

/-- TICK_ARRIVAL: a completion still due is taken first; the pulse interval runs "in every time state" (R2); the count
advances (R1). -/
def execTickArrival (s : State) : Result :=
  whenReleased s fun s =>
    let s := if s.time.completionDue then completeSecond s else s
    let t := { s.time with pulseInterval := s.time.pulseInterval.map (· + 1) }
    ({ s with time := t.count } : State).runTimers

/-! ### Forward steps (R6) -/

/-- The step distance j: (u - b) modulo 1440, mapped into -719 to 720 (R6). -/
def stepDistance (b u : Nat) : Int :=
  let j := ((u : Int) - b) % 1440
  if j > 720 then j - 1440 else j

/-- A forward step to a second (R6, R13, R15): the board minute follows by j, then TIME_STEPPED is raised with the
board minute after the step, and what follows `last`. -/
def forwardStep (second : Nat) (kind : StepKind) (last : List Delivery) (s : State) : State :=
  let b := s.time.boardMinute
  let u := second / 60
  let j := stepDistance b u
  let s' := { s with time := s.time.setSecond second }
  if j > 0 then
    (s'.setTimeState .running).post
      ((if u < b then [.rollover] else []) ++ [.minute u, .event (.timeStepped kind u)] ++ last)
  else if j = 0 then (s'.setTimeState .running).post (.event (.timeStepped kind u) :: last)
  else s'.post (.event (.timeStepped kind s'.time.boardMinute) :: last)

/-! ### The minute pulse (1.4) -/

/-- The capture c = (S modulo 60) x 1024 + F (R10). -/
def TimeBase.capture (t : TimeBase) : Nat := t.second % 60 * 1024 + t.tick

/-- The signed error e of a capture (R10). -/
def pulseError (c : Nat) : Int := if c < 30720 then (c : Int) else (c : Int) - 61440

/-- Change the reference state, and offer the change to the watches (R19). -/
def State.setRef (s : State) (v : RefState) : State :=
  s.noted { s with time := { s.time with ref := v } }

/-- Discipline by an accepted pulse (R10 to R13): slew within the limit, else step back to the start of the minute or
forward to the next. -/
def discipline (s : State) : State :=
  let e := pulseError s.time.capture
  if e.natAbs ≤ s.settings.stepLimit * 1024 then { s with time := { s.time with slew := -e } }
  else if e > 0 then
    let s' := { s with time := s.time.setSecond (s.time.second - s.time.second % 60) }
    s'.post [.event (.timeStepped .pulseStep s'.time.boardMinute)]
  else forwardStep ((s.time.second + 60 - s.time.second % 60) % 86400) .pulseStep [] s

/-- An accepted pulse at the reference state (R9). -/
def lockReference (s : State) : State :=
  if s.time.ref = .locked then s else (s.setRef .locked).raiseRouted .timeRefRegained

/-- Whether a pulse arrival is accepted: "when the pulse interval is absent or when the pulse interval is 50 s or more"
(R8). -/
def TimeBase.acceptsPulse (t : TimeBase) : Bool :=
  match t.pulseInterval with
  | none => true
  | some ticks => decide (51200 ≤ ticks)

/-- MINUTE_PULSE (R8 to R13). -/
def execMinutePulse (s : State) : Result :=
  whenReleased s fun s =>
    if s.time.acceptsPulse then
      let s := { s with time := { s.time with accepted := increment s.time.accepted, pulseInterval := some 0 } }
      let s := lockReference s
      match s.time.state with
      | .unset => s
      | .running | .holding _ => discipline s
    else { s with time := { s.time with spurious := increment s.time.spurious } }

/-- PULSE_INTERVAL_EXPIRY: in LOCKED, where the pulse interval has reached 180 s, LOST with TIME_REF_LOST (R9). -/
def execPulseIntervalExpiry (s : State) : Result :=
  whenReleased s fun s =>
    if s.time.ref = .locked ∧ s.time.pulseInterval.any (fun ticks => decide (184320 ≤ ticks)) then
      (s.setRef .lost).raiseRouted .timeRefLost
    else s

/-! ### SET TIME (1.5) -/

/-- The target service second t = (tod - 60 x DAY START) modulo 86400 (R14). -/
def targetSecond (dayStart tod : Nat) : Nat := (((tod : Int) - 60 * dayStart) % 86400).toNat

/-- The circular difference d = (t - S) modulo 86400, mapped into -43200 to 43199 (R14). -/
def circularDifference (t second : Nat) : Int :=
  let d := ((t : Int) - second) % 86400
  if d ≥ 43200 then d - 86400 else d

/-- A backward correction (R16): the first case of its table. -/
def backwardCorrection (c : Ctrl) (t : Nat) (d : Int) (s : State) : Served :=
  let u := t / 60
  let b := s.time.boardMinute
  if d < -3600 then refuse s .outOfWindow
  else if u = b then (({ s with time := s.time.setSecond t } : State).post [.reply c], none)
  else if ((b : Int) - u) % 1440 > 60 then refuse s .outOfWindow
  else
    ((({ s with time := s.time.setSecond t } : State).setTimeState (.holding b)).post
      [.event (.timeStepped .hold b), .reply c], none)

/-- SET TIME past its checks (R14 to R16). -/
def setTimeServed (c : Ctrl) (tod : Nat) (s : State) : Served :=
  let t := targetSecond s.settings.dayStart tod
  match s.time.state with
  | .unset =>
    ((({ s with time := s.time.setSecond t } : State).setTimeState .running).post
      [.minute (t / 60), .event (.timeStepped .forward (t / 60)), .reply c], none)
  | .running | .holding _ =>
    let d := circularDifference t s.time.second
    if d ≥ 0 then (forwardStep t .forward [.reply c] s, none) else backwardCorrection c t d s

def execSetTime (c : Ctrl) (s : State) : Result :=
  serve c.port codeSetTime (authorised c (parsed parseTod (setTimeServed c))) s

/-! ### READ TIME (R19) -/

def RefState.number : RefState → Byte
  | .noRef => 0
  | .locked => 1
  | .lost => 2

/-- The 18 bytes of READ TIME (10.8, Time). -/
def TimeBase.bytes (t : TimeBase) : List Byte :=
  [timeItem t, t.ref.number] ++ be24 t.second ++ be16 t.tick ++ be16 t.boardMinute ++
  (match t.state with
   | .holding h => 1 :: be16 h
   | .unset | .running => 0 :: openBytes .holdMinute) ++
  beInt t.slew ++ beCounter t.accepted ++ beCounter t.spurious

def execReadTime (p : Port) (s : State) : Result :=
  serve p codeReadTime (withoutPayload fun s => done s s.time.bytes) s

end Sys2Proof.Machine
end

