-- ==== Sys2Proof/Machine/Dispatch.lean ====
section
/-! DEFINITION. One arm for each command: the meaning of each row of spec/opcode_table.json. -/

namespace Sys2Proof.Machine

/-- The effect of a command on everything but the queue. -/
def exec (i : Instr) (s : State) : Host.Outcome State Fault Refusal :=
  match i with
  | .hardwareReset cause => Sys2Proof.Machine.execHardwareReset cause s
  | .resetEnd run => Sys2Proof.Machine.execResetEnd run s
  | .secondCompletion => Sys2Proof.Machine.execSecondCompletion s
  | .minutePulse => Sys2Proof.Machine.execMinutePulse s
  | .pulseIntervalExpiry => Sys2Proof.Machine.execPulseIntervalExpiry s
  | .setTime port => Sys2Proof.Machine.execSetTime port s
  | .readTime port => Sys2Proof.Machine.execReadTime port s
  | .tableMinuteEvent => Sys2Proof.Machine.execTableMinuteEvent s
  | .tableRebase => Sys2Proof.Machine.execTableRebase s
  | .insertDeparture port => Sys2Proof.Machine.execInsertDeparture port s
  | .amendExpected port => Sys2Proof.Machine.execAmendExpected port s
  | .assignPlatform port => Sys2Proof.Machine.execAssignPlatform port s
  | .setRemark port => Sys2Proof.Machine.execSetRemark port s
  | .setSector port => Sys2Proof.Machine.execSetSector port s
  | .setAnnounceMask port => Sys2Proof.Machine.execSetAnnounceMask port s
  | .cancelDeparture port => Sys2Proof.Machine.execCancelDeparture port s
  | .reinstate port => Sys2Proof.Machine.execReinstate port s
  | .markDeparted port => Sys2Proof.Machine.execMarkDeparted port s
  | .removeDeparture port => Sys2Proof.Machine.execRemoveDeparture port s
  | .clearBoard port => Sys2Proof.Machine.execClearBoard port s
  | .readRecord port => Sys2Proof.Machine.execReadRecord port s
  | .readList port => Sys2Proof.Machine.execReadList port s
  | .requestAuthority port => Sys2Proof.Machine.execRequestAuthority port s
  | .seizeAuthority port => Sys2Proof.Machine.execSeizeAuthority port s
  | .releaseAuthority port => Sys2Proof.Machine.execReleaseAuthority port s
  | .readAuthority port => Sys2Proof.Machine.execReadAuthority port s
  | .yieldTimerExpiry => Sys2Proof.Machine.execYieldTimerExpiry s
  | .holderSilenceExpiry => Sys2Proof.Machine.execHolderSilenceExpiry s
  | .setTextAddress port => Sys2Proof.Machine.execSetTextAddress port s
  | .loadText port => Sys2Proof.Machine.execLoadText port s
  | .commitRow port => Sys2Proof.Machine.execCommitRow port s
  | .discardStaging port => Sys2Proof.Machine.execDiscardStaging port s
  | .readTextRow port => Sys2Proof.Machine.execReadTextRow port s
  | .rowCommitCompletion success => Sys2Proof.Machine.execRowCommitCompletion success s
  | .composerMinuteEvent => Sys2Proof.Machine.execComposerMinuteEvent s
  | .noticeRebase => Sys2Proof.Machine.execNoticeRebase s
  | .cycleStart chain => Sys2Proof.Machine.execCycleStart chain s
  | .pageTimerExpiry chain => Sys2Proof.Machine.execPageTimerExpiry chain s
  | .compositionStart => Sys2Proof.Machine.execCompositionStart s
  | .compositionCompletion => Sys2Proof.Machine.execCompositionCompletion s
  | .partTimerExpiry chain => Sys2Proof.Machine.execPartTimerExpiry chain s
  | .setNotice port => Sys2Proof.Machine.execSetNotice port s
  | .clearNotice port => Sys2Proof.Machine.execClearNotice port s
  | .readNotices port => Sys2Proof.Machine.execReadNotices port s
  | .leadEnd chain => Sys2Proof.Machine.execLeadEnd chain s
  | .chainFrameSent chain => Sys2Proof.Machine.execChainFrameSent chain s
  | .moduleAnswer chain row status checkGood => Sys2Proof.Machine.execModuleAnswer chain row status checkGood s
  | .answerWindowExpiry chain => Sys2Proof.Machine.execAnswerWindowExpiry chain s
  | .refreshTimerExpiry chain => Sys2Proof.Machine.execRefreshTimerExpiry chain s
  | .cueMinuteEvent => Sys2Proof.Machine.execCueMinuteEvent s
  | .cueRebase => Sys2Proof.Machine.execCueRebase s
  | .cueIssue => Sys2Proof.Machine.execCueIssue s
  | .cueRefresh => Sys2Proof.Machine.execCueRefresh s
  | .cueWithdraw => Sys2Proof.Machine.execCueWithdraw s
  | .recordEnded => Sys2Proof.Machine.execRecordEnded s
  | .slotFreed => Sys2Proof.Machine.execSlotFreed s
  | .boardCleared => Sys2Proof.Machine.execBoardCleared s
  | .announce port => Sys2Proof.Machine.execAnnounce port s
  | .readCueStatus port => Sys2Proof.Machine.execReadCueStatus port s
  | .fetchCue => Sys2Proof.Machine.execFetchCue s
  | .cueDone => Sys2Proof.Machine.execCueDone s
  | .playTimerExpiry => Sys2Proof.Machine.execPlayTimerExpiry s
  | .clockMinuteEvent => Sys2Proof.Machine.execClockMinuteEvent s
  | .impulseCompletion line => Sys2Proof.Machine.execImpulseCompletion line s
  | .spacingTimerExpiry line => Sys2Proof.Machine.execSpacingTimerExpiry line s
  | .lineFaultReport line kind => Sys2Proof.Machine.execLineFaultReport line kind s
  | .setDialShown port => Sys2Proof.Machine.execSetDialShown port s
  | .lineOff port => Sys2Proof.Machine.execLineOff port s
  | .lineOn port => Sys2Proof.Machine.execLineOn port s
  | .clearLineFault port => Sys2Proof.Machine.execClearLineFault port s
  | .readLines port => Sys2Proof.Machine.execReadLines port s
  | .writeConfigItem port => Sys2Proof.Machine.execWriteConfigItem port s
  | .readConfigItem port => Sys2Proof.Machine.execReadConfigItem port s
  | .commitConfig port => Sys2Proof.Machine.execCommitConfig port s
  | .configCommitCompletion success => Sys2Proof.Machine.execConfigCommitCompletion success s
  | .readCounters port => Sys2Proof.Machine.execReadCounters port s
  | .clearCounters port => Sys2Proof.Machine.execClearCounters port s
  | .readIdent port => Sys2Proof.Machine.execReadIdent port s
  | .readEvent port => Sys2Proof.Machine.execReadEvent port s
  | .setEventEnable port => Sys2Proof.Machine.execSetEventEnable port s
  | .postWatch port => Sys2Proof.Machine.execPostWatch port s
  | .frameReceived port bytes => Sys2Proof.Machine.execFrameReceived port bytes s
  | .frameGapExpiry port => Sys2Proof.Machine.execFrameGapExpiry port s
  | .stopBitError port => Sys2Proof.Machine.execStopBitError port s
  | .breakReceived port => Sys2Proof.Machine.execBreak port s
  | .replySent port => Sys2Proof.Machine.execReplySent port s
  | .tickArrival => Sys2Proof.Machine.execTickArrival s
  | .mainSupplyLoss => Sys2Proof.Machine.execMainSupplyLoss s
  | .backupSupplyLoss => Sys2Proof.Machine.execBackupSupplyLoss s
  | .rowStorageFault row => Sys2Proof.Machine.execRowStorageFault row s

end Sys2Proof.Machine
end

