-- ==== Sys2Proof/WellFormed.lean ====
section
/-! DEFINITION. Which commands name something that exists: the operand checks that the types do not make. -/

namespace Sys2Proof

/-- A module's answer carries its row number, "set on the module when it is installed, from 1 to 12" (7.1); a row of
the Text Store is numbered 0 to 511 (5.1). Every other operand's type holds only values that exist. -/
def Instr.wellFormed : Instr → Bool
  | .moduleAnswer _ row _ _ => decide (1 ≤ row ∧ row ≤ 12)
  | .rowStorageFault row => decide (row ≤ 511)
  | _ => true

end Sys2Proof
end

