-- ==== Sys2Proof/Safety.lean ====
section
/-! DEFINITION. The terms the claims use: when the part operates, when a command waits for its block, the state that
answers it, the invariants of a safe run, and the outcomes that several claims share. -/

namespace Sys2Proof

/-- The rows that act while the part is held: the end of the reset, resets, supplies and the nonvolatile rows (R190,
log 3). -/
def Instr.actsWhileHeld : Instr → Bool
  | .hardwareReset _ | .resetEnd _ | .mainSupplyLoss | .backupSupplyLoss | .rowStorageFault _ => true
  | _ => false

/-- The rows of the Time Base alone, which it takes from the end of the reset, before the ports open (R190). -/
def Instr.actsBeforeOpening : Instr → Bool
  | .tickArrival | .secondCompletion | .minutePulse | .pulseIntervalExpiry => true
  | _ => false

/-- A chain plan in its ranges and consistent (6.1, R100). -/
def ChainPlan.inRange (p : ChainPlan) : Prop :=
  24 ≤ p.width ∧ p.width ≤ 64 ∧ 1 ≤ p.roles.length ∧ p.roles.length ≤ 12 ∧ p.platformFilter ≤ 32 ∧
    p.pinned ≤ p.roles.count .list ∧ 4 ≤ p.pagePeriod ∧ p.pagePeriod ≤ 30 ∧ 250 ≤ p.refreshPeriod ∧
    p.refreshPeriod ≤ 2000

/-- A line configuration in its ranges (9.1, R168). -/
def LineConfig.inRange (l : LineConfig) : Prop :=
  200 ≤ l.width ∧ l.width ≤ 1000 ∧ l.width % 50 = 0 ∧ 1 ≤ l.fast ∧ l.fast ≤ 10 ∧ l.wait ≤ 120

/-- Every item of a configuration in its range, with CLOSE LEAD below CALL LEAD (11.1, 3.1, R54). -/
def Settings.inRange (c : Settings) : Prop :=
  (c.dayStart ≤ 1439 ∧ 1 ≤ c.stepLimit ∧ c.stepLimit ≤ 8) ∧
  (c.onTimeTolerance ≤ 5 ∧ 5 ≤ c.callLead ∧ c.callLead ≤ 60 ∧ 1 ≤ c.closeLead ∧ c.closeLead ≤ 10 ∧
    c.closeLead < c.callLead ∧ c.departGrace ≤ 10 ∧ c.goneHold ≤ 5 ∧ c.cancelHold ≤ 60 ∧ 1 ≤ c.delayCueThreshold ∧
    c.delayCueThreshold ≤ 60 ∧ 1 ≤ c.delayCueStep ∧ c.delayCueStep ≤ 30 ∧ c.conflictWindow ≤ 10 ∧
    c.changeFlash ≤ 15) ∧
  (5 ≤ c.yieldTime ∧ c.yieldTime ≤ 120 ∧ 2 ≤ c.holdSilence ∧ c.holdSilence ≤ 60) ∧
  (∀ k : Fin 4, c.plans[k].inRange) ∧ (2 ≤ c.noticePeriod ∧ c.noticePeriod ≤ 10) ∧
  (1 ≤ c.platformWeight ∧ c.platformWeight ≤ 8 ∧ 1 ≤ c.delayWeight ∧ c.delayWeight ≤ 8 ∧ 1 ≤ c.routineWeight ∧
    c.routineWeight ≤ 8 ∧ 30 ≤ c.playTimeout ∧ c.playTimeout ≤ 600) ∧
  (∀ k : Fin 4, c.lines[k].inRange)

end Sys2Proof

namespace Sys2Proof.Machine

/-- The part is not held in reset, and its ports are open (R190). -/
def State.operating (s : State) : Prop := s.power.operates = true

/-- The part is not held in reset: the Time Base counts, whether or not the ports are open yet (R190). -/
def State.released (s : State) : Prop := s.power.held = false

/-- The part operates, and a port's command in service, with this code and payload, waits for its block (R175). -/
def State.commanded (s : State) (p : Port) (code : Byte) (payload : List Byte) : Prop :=
  s.operating ∧ (s.port p).service = .serving code payload .waiting

/-- The state with that command answered by a reply: nothing else of it differs from `s`. -/
def State.answered (s : State) (p : Port) (code : Byte) (payload : List Byte) (r : Reply) : State :=
  s.setService p (.serving code payload (.replied r))

/-- A port is one of those to which an event with this routing item is raised (R180). -/
def State.routes (s : State) (r : Route) (q : Ctrl) : Prop :=
  r = .both ∨ r = .holder ∧ (s.arbiter.holder = none ∨ s.arbiter.holder = some q)

/-- A record, its conflict flag apart. -/
def Record.unflagged (r : Record) : Record := { r with conflict := false }

/-- Every slot but one holds what it held, conflict flags apart. -/
def Table.keepsOthers (before after : Table) (i : Slot) : Prop :=
  ∀ j : Slot, j ≠ i → (after.slots[j]).map Record.unflagged = (before.slots[j]).map Record.unflagged

/-- Two states differ in nothing but the table, the notifications handed to the scheduler, and the ports. -/
def State.changesTable (before after : State) : Prop :=
  after = { before with
    table := after.table, ports := after.ports, cues := { before.cues with inbox := after.cues.inbox } }

/-- What a command hands for the change of one record, in R26's order: withdrawals (the command's own, then the
evaluation's), refresh, record ended, issues (the command's own, then the evaluation's). `x` is the record the command
leaves to its evaluation, `e` the evaluation, `n` the working minute. -/
def handedFor (i : Slot) (x : Record) (e : Evaluation) (n : Int) (withdraw : List CueKind) (refresh : Bool)
    (ended : Option Ending) (issues : List Issue) : List Notification :=
  (if withdraw = [] then [] else [.withdraw i withdraw]) ++ (if e.withdraw = [] then [] else [.withdraw i e.withdraw]) ++
  (if refresh then [.refresh ⟨i, x.platform, x.effective, x.delay, x.remark⟩] else []) ++
  (ended.toList ++ e.ended.toList).map (fun how => .ended i how) ++
  (issues ++ e.issue.toList.map fun k =>
    Issue.mk k i x.code x.platform none x.effective x.delay x.destination x.remark n).map fun y => .issue y

/-- The second phase of a command that changes the record of slot i (R33): the record `x` that the command leaves is
evaluated, with the outcome `e`, and stands in its slot; the conflict check makes the pair set that of the conflicting
pairs, in ascending order, with every flag following it (R27); the notifications are handed in R26's order;
PLATFORM_CONFLICT is raised for each pair added (R28), nothing else is raised, and the reply is DONE. Nothing else of the
part changes. -/
def State.changesRecord (s t : State) (c : Ctrl) (code : Byte) (payload : List Byte) (i : Slot) (x : Record)
    (e : Evaluation) (withdraw : List CueKind) (refresh : Bool) (ended : Option Ending) (issues : List Issue) : Prop :=
  (t.table.slots[i]).map Record.unflagged = e.record.map Record.unflagged ∧ s.table.keepsOthers t.table i ∧
  t.table = { s.table with slots := t.table.slots, order := t.table.order, pairs := t.table.pairs } ∧
  (∀ j k : Slot, (j, k) ∈ t.table.pairs ↔ j < k ∧ t.table.conflictPair s.settings.conflictWindow j k = true) ∧
  t.table.pairs.Pairwise (fun p q => p.1 < q.1 ∨ p.1 = q.1 ∧ p.2 < q.2) ∧
  (∀ (j : Slot) (r : Record), t.table.slots[j] = some r →
    (r.conflict = true ↔ ∃ k : Slot, (j, k) ∈ t.table.pairs ∨ (k, j) ∈ t.table.pairs)) ∧
  t.cues = { s.cues with
    inbox := s.cues.inbox ++ (handedFor i x e s.table.working withdraw refresh ended issues).map
      fun y => CueMessage.notice y (some c) } ∧
  (∀ conflicts, conflicts = (t.table.pairs.filter fun p => decide (p ∉ s.table.pairs)).map (fun p =>
      Event.platformConflict ((t.table.slots[p.1].bind fun r => r.platform).getD 0) p.1 p.2) →
    t = { (s.raiseAll conflicts).answered c.port code payload ⟨.done, []⟩ with table := t.table, cues := t.cues })

/-- A port's command is answered by a reply, whatever else of the port changed. -/
def State.repliedWith (s : State) (p : Port) (code : Byte) (payload : List Byte) (r : Reply) : Prop :=
  (s.port p).service = .serving code payload (.replied r)

/-- The text memory has its canonical form (5.1, log 5). -/
def State.textCanonical (s : State) : Prop := Memory.wf s.store.cells = true

/-- "The attention line is ASSERTED while the set holds one or more entries and RELEASED while it holds none" (R177). -/
def State.attentionFollows (s : State) : Prop := ∀ p : Port, (s.port p).attention = !(s.port p).events.isEmpty

/-- "No class queue ever holds more than 16 cues" (R136). -/
def State.queuesBounded (s : State) : Prop := ∀ k : CueClass, (s.cues.queue k).length ≤ 16

/-- A port waits only for the other port, which holds authority; the yield timer runs exactly while a port waits, and
the holder silence timer exactly while a port holds (4.1, R71, R77). -/
def State.waitSound (s : State) : Prop :=
  (∀ w, s.arbiter.waiting = some w → s.arbiter.holder = some w.other) ∧
  (s.arbiter.yield = .stopped ↔ s.arbiter.waiting = none) ∧
  (s.arbiter.silence = .stopped ↔ s.arbiter.holder = none)

/-- The departure list holds every occupied slot exactly once (R23). -/
def State.listSound (s : State) : Prop :=
  s.table.order.Nodup ∧ ∀ i : Slot, i ∈ s.table.order ↔ s.table.slots[i].isSome = true

/-- The departure list is "in ascending sort key" (R23): sort minute, then scheduled minute, then slot number. -/
def State.listSorted (s : State) : Prop :=
  s.table.order.Pairwise fun i j => ∀ a b : Record, s.table.slots[i] = some a → s.table.slots[j] = some b →
    a.sortMinute < b.sortMinute ∨ a.sortMinute = b.sortMinute ∧ (a.sched < b.sched ∨ a.sched = b.sched ∧ i < j)

/-- Every pending-event set is in ascending event code, with one entry of a kind at most (R177, R178). -/
def State.eventsAscending (s : State) : Prop :=
  ∀ p : Port, ((s.port p).events.map Event.code).Pairwise (· < ·)

/-- A timer one tick arrival later (log 9). -/
def Timer.ticked (before after : Timer) : Prop :=
  (before = .stopped → after = .stopped) ∧ ∀ left, before = .running left → after = .running (left - 1000)

/-- A timer that stays RUN_OUT, one tick arrival later (log 9). -/
def LatchTimer.ticked (before after : LatchTimer) : Prop :=
  (before = .stopped → after = .stopped) ∧ (before = .runOut → after = .runOut) ∧
    ∀ left, before = .running left → after = .running (left - 1000)

/-- A forward step of the time to a second (R6), followed by what `last` delivers: with j the distance of the board
minutes, j > 0 delivers the new minute, behind a rollover where u < b; every step but one short of a hold minute leaves
RUNNING; TIME_STEPPED carries the board minute after the step. While a rollover is in progress it all waits (log 13). -/
def State.stepsForward (s t : State) (second : Nat) (kind : StepKind) (last : List Delivery) : Prop :=
  ∀ (b u : Nat) (j : Int), b = s.time.boardMinute → u = second / 60 →
    j = (if ((u : Int) - b) % 1440 > 720 then ((u : Int) - b) % 1440 - 1440 else ((u : Int) - b) % 1440) →
    t.time = { s.time with
      second := second, tick := 0, slew := 0, adjustment := .normal, secondTicks := 0, completionDue := false
      state := if 0 ≤ j then .running else s.time.state, rollover := t.time.rollover, outbox := t.time.outbox } ∧
    t = { s with
      time := t.time, ports := t.ports, table := { s.table with inbox := t.table.inbox }
      cues := { s.cues with minutes := t.cues.minutes }, composer := { s.composer with inbox := t.composer.inbox }
      clock := { s.clock with inbox := t.clock.inbox } } ∧
    ((j ≤ 0 ∨ u < b ∨ s.time.rollover ≠ none) →
      t.cues = s.cues ∧ t.composer = s.composer ∧ t.clock = s.clock) ∧
    ((j ≤ 0 ∨ s.time.rollover ≠ none) → t.table = s.table) ∧
    (s.time.rollover = none →
      (0 < j → b ≤ u → t.table.inbox = s.table.inbox ++ [.minute u] ∧ t.cues.minutes = s.cues.minutes ++ [u] ∧
        t.composer.inbox = s.composer.inbox ++ [.minute u] ∧ t.clock.inbox = s.clock.inbox ++ [u]) ∧
      (0 < j → u < b → t.table.inbox = s.table.inbox ++ [.rebase] ∧ t.time.rollover = some .table ∧
        t.time.outbox = [.minute u, .event (.timeStepped kind u)] ++ last) ∧
      ((j ≤ 0 ∨ b ≤ u) → t.time.rollover = none ∧ t.time.outbox = [] ∧
        ∀ q : Ctrl, s.routes s.settings.routing.timeStepped q → (s.port q.port).enables.getLsbD 6 = true →
          Event.timeStepped kind t.time.boardMinute ∈ (t.port q.port).events)) ∧
    (∀ stage, s.time.rollover = some stage → t.time.rollover = some stage ∧
      t.time.outbox = s.time.outbox ++ ((if 0 < j ∧ u < b then [.rollover] else []) ++
        (if 0 < j then [.minute u] else []) ++ [.event (.timeStepped kind t.time.boardMinute)] ++ last))

/-- A link becomes ready for row k and chooses its frame from the head of its feed (R125): the image of row k, whose
place is released; else, with the feed unchanged and the row passed at the composer (R106), a REPEAT frame, counted as
stale, or in a disabled cycle a blank frame, not counted. -/
def State.readies (s t : State) (c : Chain) (k : Nat) : Prop :=
  (∀ image rest, s.links[c].feed = .image k image :: rest →
    t.links[c].state = .rowOut k (.forRow k (.row s.composer.views[c].plan.width image)) ∧ t.links[c].feed = rest ∧
      t.links[c].stale = s.links[c].stale ∧ t.composer = s.composer) ∧
  ((s.links[c].feed = [] ∨ ∃ rest, s.links[c].feed = .reserved k :: rest) →
    t.links[c].feed = s.links[c].feed ∧
    (s.links[c].disabled = false → t.links[c].state = .rowOut k (.forRow k .repeated) ∧
      t.links[c].stale = if s.links[c].stale = 0xFFFF then 0xFFFF else s.links[c].stale + 1) ∧
    (s.links[c].disabled = true → t.links[c].state = .rowOut k (.forRow k (.blank s.composer.views[c].plan.width)) ∧
      t.links[c].stale = s.links[c].stale) ∧
    t.composer.views[c] = { s.composer.views[c] with
      nextRow := if s.composer.views[c].nextRow ≤ k then k + 1 else s.composer.views[c].nextRow } ∧
    (s.composer.engine = none → t.composer.engine = none) ∧
    (∀ e, s.composer.engine = some e →
      t.composer.engine = some { e with passed := e.passed || decide (e.chain = c ∧ e.row = k) }) ∧
    (∀ j : Chain, j ≠ c → t.composer.views[j] = s.composer.views[j]) ∧
    t.composer = { s.composer with engine := t.composer.engine, views := t.composer.views })

/-- The evaluation of R158 of a line whose record is `r`, evaluable and with no impulse in flight, showing the dial
minute m: the record `after` it, and its retention entry, which is `e` before it and `e'` after it (R160). -/
def State.evaluates (s : State) (l : Line) (m : Nat) (r after : LineRecord) (e e' : RetentionEntry) : Prop :=
  (s.clock.clockSet = false → after = { r with state := .noTime } ∧ e' = e) ∧
  (s.clock.clockSet = true → ∀ d : Int,
    d = ((((s.settings.dayStart + s.clock.working) % 720 : Nat) : Int) - m) % 720 →
    (d = 0 → after = { r with state := .inStep } ∧ e' = e) ∧
    (d ≠ 0 → 720 - s.settings.lines[l].wait ≤ d → after = { r with state := .waiting } ∧ e' = e) ∧
    (d ≠ 0 → d < 720 - s.settings.lines[l].wait →
      (∀ left, r.spacing = .running left →
        after = { r with state := if d = 1 then .inStep else .catching } ∧ e' = e) ∧
      ((r.spacing = .stopped ∨ r.spacing = .runOut) →
        after = { r with
          state := if d = 1 then .inStep else .catching
          impulse := some ⟨r.polarity, s.settings.lines[l].width⟩
          spacing := .running (s.settings.lines[l].fast * 1024000) } ∧
        e' = ⟨m, r.polarity, true⟩)))

/-- Two states differ in nothing but the record of one line, its retention entry, and the ports; the retention area
differs only where an impulse starts or ends, and is valid there (R160, R163). -/
def State.changesLine (before after : State) (l : Line) : Prop :=
  (∀ j : Line, j ≠ l → after.clock.lines[j] = before.clock.lines[j] ∧
    after.retention.entries[j] = before.retention.entries[j]) ∧
  after = { before with
    clock := { before.clock with lines := after.clock.lines }, retention := after.retention, ports := after.ports } ∧
  (after.clock.lines[l].impulse = before.clock.lines[l].impulse → after.retention = before.retention) ∧
  (after.clock.lines[l].impulse ≠ before.clock.lines[l].impulse → after.retention.valid = true)

end Sys2Proof.Machine
end

