-- ==== Sys2Proof/Certificates/Slice0/Obligations.lean ====
section
/-! DEFINITION. The statements for the provers. Where a statement rests on a choice of the model, its docstring names
the log entry. -/

open Sys2Proof Sys2Proof.Machine

/-! ### The whole machine -/

/-- A step is the command at the front of the queue, run with the queue's rest (log 1). -/
def Obligations.StepRunsTheFrontCommand : Prop :=
  ∀ (c : Instr) (rest : List Instr) (s : State), s.pending = c :: rest → step s = exec c { s with pending := rest }

/-- The queue is the sender's alone (the model's choice, log 1): with an empty queue the part idles, and no command
changes the queue. -/
def Obligations.OnlyStepTakesFromTheQueue : Prop :=
  (∀ s : State, s.pending = [] → step s = .next s) ∧
  (∀ (c : Instr) (s t : State), exec c s = .next t → t.pending = s.pending)

/-- Every well-formed command answers a next state; a ROW_STORAGE_FAULT of a row above 511 stops (log 37). -/
def Obligations.OnlyAnAbsentRowStops : Prop :=
  (∀ (c : Instr) (s : State), c.wellFormed = true → ∃ t : State, exec c s = .next t) ∧
  (∀ (row : Nat) (s : State), 511 < row → exec (.rowStorageFault row) s = .fault .noSuchRow)

/-- Nothing reaches a part that is held but resets, supplies and storage faults, and nothing one whose ports are not
open yet but those, the start-up sequence and the Time Base's own arrivals (R190, log 3). -/
def Obligations.HeldPartTakesNoCommand : Prop :=
  (∀ (c : Instr) (s : State), s.power.held = true → c.actsWhileHeld = false → exec c s = .next s) ∧
  (∀ (c : Instr) (s : State), s.power.operates = false → c.actsWhileHeld = false → c.actsBeforeOpening = false →
    exec c s = .next s)

/-! ### Invariants that every step keeps -/

/-- Every step keeps the canonical form of the text memory (5.1, log 5). -/
def Obligations.StepKeepsTheTextCanonical : Prop :=
  ∀ s t : State, s.textCanonical → step s = .next t → t.textCanonical

/-- Every step keeps every attention line following its set (R177), and every set in ascending event code with one
entry of a kind (R177, R178). -/
def Obligations.StepKeepsAttentionFollowing : Prop :=
  (∀ s t : State, s.attentionFollows → step s = .next t → t.attentionFollows) ∧
  (∀ s t : State, s.eventsAscending → step s = .next t → t.eventsAscending)

/-- Every step keeps every class queue at 16 cues or fewer (R136). -/
def Obligations.StepKeepsQueuesBounded : Prop :=
  ∀ s t : State, s.queuesBounded → step s = .next t → t.queuesBounded

/-- Every step keeps the arbiter's waiting port and timers sound (4.1, R71, R77). -/
def Obligations.StepKeepsTheWaitSound : Prop :=
  ∀ s t : State, s.waitSound → step s = .next t → t.waitSound

/-- Every step keeps the departure list holding every occupied slot exactly once, and keeps it in ascending sort key:
sort minute, scheduled minute, slot number (R23). -/
def Obligations.StepKeepsTheListSound : Prop :=
  (∀ s t : State, s.listSound → step s = .next t → t.listSound) ∧
  (∀ s t : State, s.listSound → s.listSorted → step s = .next t → t.listSorted)

/-- The machine after reset meets the invariants above. -/
def Obligations.ResetMeetsTheInvariants : Prop :=
  State.reset.textCanonical ∧ State.reset.attentionFollows ∧ State.reset.eventsAscending ∧ State.reset.queuesBounded ∧
    State.reset.waitSound ∧ State.reset.listSound ∧ State.reset.listSorted

/-! ### Reset, supplies and start-up (chapter 11) -/

/-- Resets, supplies and storage faults. A power-on makes both supplies present, whatever they were (the model's
choice, log 25). A hardware reset holds the part and leaves every volatile block in its after-reset state, written out
(R20, R53, R84, R122, R132, R156, R171, R185), with the queue as it was; the items stand at their defaults until
start-up, and the values no rule gives are logs 4, 24, 27, 28 and 40. It keeps the rows, the stored block and the
retention area; it leaves the row of a row commit in flight FAILING, and the stored block failing its CRC where a
configuration commit was in flight (R99), the stored cells and bytes of both as they were (the model's choice, log
43). A loss of main supply does the same (log 26); the retention area stays as it was while a supply is present, and
is found invalid where both are absent (R189). A storage fault makes its row FAILING: every reader is given 16 spaces
(R85), and the stored cells are as they were (the model's choice, log 44). -/
def Obligations.ResetsSuppliesAndStorageFaults : Prop :=
  (∀ (c : Instr) (main backup : Bool) (s : State),
    ((c = .hardwareReset .powerOn ∧ main = true ∧ backup = true) ∨
      (c = .hardwareReset .resetInput ∧ main = s.power.main ∧ backup = s.power.backup) ∨
      (c = .mainSupplyLoss ∧ main = false ∧ backup = s.power.backup)) →
    ∃ t : State, exec c s = .next t ∧
    t.power = ⟨true, some .straps, main, backup⟩ ∧ t.pending = s.pending ∧ t.settings = defaultSettings ∧
    t.ident = ⟨⟨0, false, false, false, false⟩, 0, false, false⟩ ∧
    (∀ p : Port, t.port p = ⟨.hunt, .idle, [], BitVec.allOnes 35, false, none, 0, 0⟩) ∧
    t.arbiter = ⟨none, none, .stopped, .stopped⟩ ∧
    t.time = ⟨.unset, 0, 0, 0, .normal, 0, false, .noRef, none, 0, 0, none, []⟩ ∧
    ((∀ i : Slot, t.table.slots[i] = none) ∧ t.table.order = [] ∧ t.table.pairs = [] ∧ t.table.working = 0 ∧
      t.table.timed = false ∧ t.table.inbox = []) ∧
    (t.composer.working = 0 ∧ t.composer.clockSet = false ∧ (∀ p : Fin 8, t.composer.notices[p] = none) ∧
      t.composer.engine = none ∧ t.composer.lastServed = 3 ∧ t.composer.inbox = [] ∧
      ∀ k : Chain, t.composer.views[k] = ⟨defaultPlan false, false, [], 0, .stopped, 1, none, .stopped, false⟩) ∧
    (∀ k : Chain, t.links[k].state = .notStarted ∧ t.links[k].rowCount = 1 ∧ t.links[k].disabled = false ∧
      t.links[k].clean = true ∧ t.links[k].refresh = .stopped ∧ t.links[k].feed = [] ∧ t.links[k].fault = false ∧
      t.links[k].stale = 0 ∧ t.links[k].absent = 0 ∧ ∀ r : Fin 12, t.links[k].modules[r] = ⟨.absent, 0⟩) ∧
    t.cues = ⟨[], [], [], [], none, 4, 2, 1, 1, 0, 0, 0, 0, 0, 0, 0, 0, 0, [], []⟩ ∧
    (t.clock.clockSet = false ∧ t.clock.working = 0 ∧ t.clock.inbox = [] ∧
      ∀ l : Line, t.clock.lines[l] = ⟨.unknown, none, .positive, none, false, .stopped⟩) ∧
    t.store.cells = s.store.cells ∧ t.store.engine = none ∧
    (∀ c : Ctrl, (t.staging c).row = 0 ∧ (t.staging c).column = .cell 0 ∧
      ∀ i : Fin 16, (t.staging c).cells[i] = 0x20 ∧ (t.staging c).loaded[i] = false) ∧
    (∀ r : Nat, r ∈ t.store.failing ↔ r ∈ s.store.failing ∨
      ∃ (row : Fin 512) (cells : List Byte) (c : Ctrl), s.store.engine = some ⟨.row row cells, c⟩ ∧ r = row.val) ∧
    t.stored.bytes = s.stored.bytes ∧
    ((∃ (items : Settings) (c : Ctrl), s.store.engine = some ⟨.config items, c⟩) → t.stored.intact = false) ∧
    ((∀ (items : Settings) (c : Ctrl), s.store.engine ≠ some ⟨.config items, c⟩) → t.stored = s.stored) ∧
    ((main = true ∨ backup = true ∨ c = .hardwareReset .resetInput) → t.retention = s.retention) ∧
    (c = .mainSupplyLoss → backup = false → t.retention.valid = false)) ∧
  (∀ s : State, ∃ t : State, exec .backupSupplyLoss s = .next t ∧
    t = { s with power := { s.power with backup := false }, retention := t.retention } ∧
    (s.power.main = true → t.retention = s.retention) ∧ (s.power.main = false → t.retention.valid = false)) ∧
  (∀ (row : Nat) (s : State), row ≤ 511 →
    ∃ t : State, exec (.rowStorageFault row) s = .next t ∧
      t = { s with store := { s.store with failing := t.store.failing } } ∧
      (∀ r, r ∈ t.store.failing ↔ r = row ∨ r ∈ s.store.failing) ∧
      (∀ i, i < 16 → t.store.visible (row * 16 + i) = 0x20) ∧
      (∀ a, a / 16 ≠ row → t.store.visible a = s.store.visible a))

/-- A command that fails a check changes nothing but its own reply, and the checks come in R33's order: a command that
requires authority, from a port that does not hold it, is refused NOT_AUTHORITY whatever its payload (R79); one whose
payload is of the wrong length or out of range is refused BAD_ARGUMENT (R34, R35; 10.8), which takes in the three
kinds of payload that the model chose to refuse so: bytes behind a service code other than 0x20 (log 18), a watch mask
with a bit of 11 to 15 set (log 21), and a start position of READ LIST in other than one byte (log 45); one that names
a record that is not in the table is refused NO_RECORD (R34, R50). -/
def Obligations.ChecksRefuseInOrder : Prop :=
  (∀ (c : Ctrl) (i : Instr) (code : Byte) (payload : List Byte) (s : State),
    (i, code) ∈ [(Instr.insertDeparture c, codeInsertDeparture), (.amendExpected c, codeAmendExpected),
      (.assignPlatform c, codeAssignPlatform), (.setRemark c, codeSetRemark), (.setSector c, codeSetSector),
      (.setAnnounceMask c, codeSetAnnounceMask), (.cancelDeparture c, codeCancelDeparture),
      (.reinstate c, codeReinstate), (.markDeparted c, codeMarkDeparted), (.removeDeparture c, codeRemoveDeparture),
      (.clearBoard c, codeClearBoard), (.setTime c, codeSetTime), (.setTextAddress c, codeSetTextAddress),
      (.loadText c, codeLoadText), (.commitRow c, codeCommitRow), (.discardStaging c, codeDiscardStaging),
      (.setNotice c, codeSetNotice), (.clearNotice c, codeClearNotice), (.announce c, codeAnnounce),
      (.setDialShown c, codeSetDialShown), (.clearLineFault c, codeClearLineFault), (.lineOff c, codeLineOff),
      (.lineOn c, codeLineOn), (.writeConfigItem c, codeWriteConfigItem), (.commitConfig c, codeCommitConfig),
      (.clearCounters c, codeClearCounters)] →
    s.commanded c.port code payload → s.arbiter.holder ≠ some c →
    exec i s = .next (s.answered c.port code payload ⟨.notAuthority, []⟩)) ∧
  (∀ (c : Ctrl) (i : Instr) (code : Byte) (readable : Bool) (payload : List Byte) (s : State),
    (i, code, readable) ∈ [(Instr.insertDeparture c, codeInsertDeparture, (parseInsert payload).isSome),
      (.amendExpected c, codeAmendExpected, (parseCodeAnd 11 optMinuteAt payload).isSome),
      (.assignPlatform c, codeAssignPlatform, (parseCodeAnd 10 platformAt payload).isSome),
      (.setRemark c, codeSetRemark, (parseCodeAnd 12 optRefAt payload).isSome),
      (.setSector c, codeSetSector, (parseCodeAnd 10 sectorAt payload).isSome),
      (.setAnnounceMask c, codeSetAnnounceMask, (parseCodeAnd 10 maskAt payload).isSome),
      (.cancelDeparture c, codeCancelDeparture, (parseCode payload).isSome),
      (.reinstate c, codeReinstate, (parseCode payload).isSome),
      (.markDeparted c, codeMarkDeparted, (parseCode payload).isSome),
      (.removeDeparture c, codeRemoveDeparture, (parseCode payload).isSome),
      (.clearBoard c, codeClearBoard, payload.isEmpty),
      (.setTime c, codeSetTime, decide (payload.length = 3 ∧ u24At payload 0 ≤ 86399)),
      (.setTextAddress c, codeSetTextAddress, (parseAddress payload).isSome),
      (.loadText c, codeLoadText, (parseLoad payload).isSome), (.commitRow c, codeCommitRow, payload.isEmpty),
      (.discardStaging c, codeDiscardStaging, payload.isEmpty),
      (.setNotice c, codeSetNotice, (parseNotice payload).isSome),
      (.clearNotice c, codeClearNotice, (parsePosition payload).isSome),
      (.announce c, codeAnnounce, (parseAnnounce payload).isSome),
      (.setDialShown c, codeSetDialShown, (parseDial payload).isSome),
      (.clearLineFault c, codeClearLineFault, (parseLine payload).isSome),
      (.lineOff c, codeLineOff, (parseLine payload).isSome), (.lineOn c, codeLineOn, (parseLine payload).isSome),
      (.writeConfigItem c, codeWriteConfigItem, (parseItem payload).isSome),
      (.commitConfig c, codeCommitConfig, payload.isEmpty), (.clearCounters c, codeClearCounters, payload.isEmpty)] →
    s.commanded c.port code payload → s.arbiter.holder = some c → readable = false →
    exec i s = .next (s.answered c.port code payload ⟨.badArgument, []⟩)) ∧
  (∀ (c : Ctrl) (i : Instr) (code : Byte) (readable : Bool) (payload : List Byte) (s : State),
    (i, code, readable) ∈ [(Instr.readRecord c, codeReadRecord, (parseRecordName payload).isSome),
      (.readList c, codeReadList, (parseStart payload).isSome),
      (.requestAuthority c, codeRequestAuthority, payload.isEmpty),
      (.seizeAuthority c, codeSeizeAuthority, payload.isEmpty || !s.settings.seizeEnable),
      (.releaseAuthority c, codeReleaseAuthority, payload.isEmpty), (.readAuthority c, codeReadAuthority, payload.isEmpty),
      (.readNotices c, codeReadNotices, payload.isEmpty), (.readCueStatus c, codeReadCueStatus, payload.isEmpty),
      (.readLines c, codeReadLines, payload.isEmpty),
      (.setEventEnable c, codeSetEventEnable, (parseEnables payload).isSome),
      (.postWatch c, codePostWatch, (parseWatch payload).isSome)] →
    s.commanded c.port code payload → readable = false →
    exec i s = .next (s.answered c.port code payload ⟨.badArgument, []⟩)) ∧
  (∀ (p : Port) (i : Instr) (code : Byte) (readable : Bool) (payload : List Byte) (s : State),
    (i, code, readable) ∈ [(Instr.readTime p, codeReadTime, payload.isEmpty),
      (.readTextRow p, codeReadTextRow, (parseRow payload).isSome), (.readEvent p, codeReadEvent, payload.isEmpty),
      (.readCounters p, codeReadCounters, payload.isEmpty), (.readIdent p, codeReadIdent, payload.isEmpty)] ∨
      (p = .cp ∧ (i, code, readable) ∈ [(Instr.fetchCue, codeFetchCue, payload.isEmpty),
        (.cueDone, codeCueDone, (parseDone payload).isSome)]) →
    s.commanded p code payload → readable = false →
    exec i s = .next (s.answered p code payload ⟨.badArgument, []⟩)) ∧
  (∀ (c : Ctrl) (i : Instr) (code : Byte) (named : Option (List Byte)) (x payload : List Byte) (s : State),
    (i, code, named) ∈ [(Instr.amendExpected c, codeAmendExpected, (parseCodeAnd 11 optMinuteAt payload).map Prod.fst),
      (.assignPlatform c, codeAssignPlatform, (parseCodeAnd 10 platformAt payload).map Prod.fst),
      (.setRemark c, codeSetRemark, (parseCodeAnd 12 optRefAt payload).map Prod.fst),
      (.setSector c, codeSetSector, (parseCodeAnd 10 sectorAt payload).map Prod.fst),
      (.setAnnounceMask c, codeSetAnnounceMask, (parseCodeAnd 10 maskAt payload).map Prod.fst),
      (.cancelDeparture c, codeCancelDeparture, parseCode payload), (.reinstate c, codeReinstate, parseCode payload),
      (.markDeparted c, codeMarkDeparted, parseCode payload), (.removeDeparture c, codeRemoveDeparture, parseCode payload)] →
    s.commanded c.port code payload → s.arbiter.holder = some c → named = some x →
    (∀ (j : Slot) (r : Record), s.table.slots[j] = some r → r.code ≠ x) →
    exec i s = .next (s.answered c.port code payload ⟨.noRecord, []⟩)) ∧
  (∀ (c : Ctrl) (payload : List Byte) (s : State), s.commanded c.port codeReadRecord payload →
    ((∃ i : Slot, parseRecordName payload = some (.slot i) ∧ s.table.slots[i] = none) ∨
      (∃ x, parseRecordName payload = some (.code x) ∧
        ∀ (j : Slot) (r : Record), s.table.slots[j] = some r → r.code ≠ x)) →
    exec (.readRecord c) s = .next (s.answered c.port codeReadRecord payload ⟨.noRecord, []⟩))

/-- The start-up sequence (R188, R189, R190, R191; how far one RESET_END carries it is log 23): straps, configuration
with CONFIG_DEFAULTED where the stored block fails, the failing row count, the credits, and the first cycle start of
every chain; and each line restored from its retention entry, case by case of R171's table. A sequence carried no
further than a step before the opening leaves the ports shut and every attention line released, whatever its set
holds; carried on from any step it ends as one carried whole, with the straps of its first step; without main supply,
or once it is done, nothing more happens. -/
def Obligations.StartUpRunsTheSequence : Prop :=
  (∀ (straps : Straps) (s : State), s.power.held = true → s.power.main = true →
    ∃ t : State, exec (.resetEnd ⟨straps, .cycles⟩) s = .next t ∧
      t.power = { s.power with held := false, startup := none } ∧ t.ident.straps = straps ∧
      t.ident.failingRows = s.store.failing.length ∧ t.store = s.store ∧ t.stored = s.stored ∧ t.time = s.time ∧
      t.table = s.table ∧ t.arbiter = s.arbiter ∧
      (s.stored.intact = true → t.settings = s.stored.settings ∧ t.ident.configDefaulted = false ∧ t.ports = s.ports) ∧
      (s.stored.intact = false → t.settings = defaultSettings ∧ t.ident.configDefaulted = true ∧
        t.ports = (s.raiseBoth .configDefaulted).ports) ∧
      (t.cues.creditPlatform = t.settings.platformWeight ∧ t.cues.creditDelay = t.settings.delayWeight ∧
        t.cues.creditRoutine = t.settings.routineWeight) ∧
      (∀ k : Chain, t.links[k].state = .lead ∧ t.links[k].rowCount = t.settings.plans[k].roles.length ∧
        t.links[k].disabled = !t.settings.plans[k].enabled ∧
        t.links[k].refresh = .running (millisLeft t.settings.plans[k].refreshPeriod) ∧
        t.composer.views[k].plan = t.settings.plans[k] ∧ t.composer.views[k].running = true ∧
        t.composer.views[k].nextRow = 1) ∧
      t.pending = s.pending) ∧
  (∀ (straps : Straps) (s : State) (l : Line), s.power.held = true → s.power.main = true →
    ∃ t : State, exec (.resetEnd ⟨straps, .cycles⟩) s = .next t ∧ t.retention.valid = true ∧
      t.ident.retentionValid = s.retention.valid ∧
      t.clock.lines[l].impulse = none ∧ t.clock.lines[l].offRequested = false ∧ t.clock.lines[l].spacing = .stopped ∧
      (s.retention.valid = true → t.retention = s.retention ∧
        t.clock.lines[l].polarity = s.retention.entries[l].polarity ∧
        (s.retention.entries[l].inFlight = false → t.clock.lines[l].shown = some s.retention.entries[l].shown ∧
          t.clock.lines[l].state = if t.settings.lines[l].enabled then .noTime else .off) ∧
        (s.retention.entries[l].inFlight = true → t.clock.lines[l].shown = none ∧
          t.clock.lines[l].state = if t.settings.lines[l].enabled then .unknown else .off)) ∧
      (s.retention.valid = false → t.clock.lines[l].polarity = .positive ∧ t.clock.lines[l].shown = none ∧
        t.clock.lines[l].state = (if t.settings.lines[l].enabled then .unknown else .off) ∧
        t.retention.entries[l] = ⟨0, .positive, true⟩)) ∧
  (∀ (straps : Straps) (upTo : StartStage) (s : State), s.power.held = true → s.power.main = true →
    ∃ t : State, exec (.resetEnd ⟨straps, upTo⟩) s = .next t ∧ t.power.held = false ∧
      t.power.startup = (match upTo with
        | .straps => some .configuration
        | .configuration => some .rows
        | .rows => some .lines
        | .lines => some .ports
        | .ports => some .cycles
        | .cycles => none) ∧
      (t.operating ↔ upTo = .ports ∨ upTo = .cycles) ∧
      (∀ p : Port, t.attentionLine p = (decide (upTo = .ports ∨ upTo = .cycles) && (t.port p).attention)) ∧
      ∀ again : Straps, exec (.resetEnd ⟨again, .cycles⟩) t = exec (.resetEnd ⟨straps, .cycles⟩) s) ∧
  (∀ (straps : Straps) (upTo : StartStage) (s : State),
    ((s.power.held = true ∧ s.power.main = false) ∨ (s.power.held = false ∧ s.power.startup = none)) →
    exec (.resetEnd ⟨straps, upTo⟩) s = .next s)

/-! ### Board time (chapter 1) -/

/-- A tick arrival where no completion is due: the pulse interval runs in every time state; in UNSET F stands; else F
moves by the second's adjustment, or, where it would pass 1023, the completion becomes due (R1, R2; log 11). Every
running timer of the part, the page and part timers among them, runs by one tick (log 9); a stopped or run-out one
stays; and nothing but the count, the pulse interval and the timers changes. Where a completion is due still, the tick
arrival takes it first, as SECOND_COMPLETION does, and then counts as one that finds none due (log 11). -/
def Obligations.TickArrivalCountsOneTick : Prop :=
  (∀ s : State, s.released → s.time.completionDue = false →
    ∃ t : State, exec .tickArrival s = .next t ∧
      t = { s with
        time := { s.time with
          tick := t.time.tick, secondTicks := t.time.secondTicks, completionDue := t.time.completionDue
          pulseInterval := s.time.pulseInterval.map (· + 1) }
        arbiter := { s.arbiter with yield := t.arbiter.yield, silence := t.arbiter.silence }
        composer := { s.composer with views := t.composer.views }, links := t.links
        cues := { s.cues with playing := s.cues.playing.map fun x => { x with left := x.left - 1000 } }
        clock := { s.clock with lines := t.clock.lines } } ∧
      (s.time.state = .unset → t.time.tick = s.time.tick ∧ t.time.secondTicks = s.time.secondTicks ∧
        t.time.completionDue = false) ∧
      (∀ move, s.time.state ≠ .unset →
        (move = match s.time.adjustment with
          | .normal => 1
          | .shortened a => if s.time.secondTicks < a then 2 else 1
          | .lengthened a => if s.time.secondTicks < a then 0 else 1) →
        t.time.secondTicks = s.time.secondTicks + 1 ∧
        (s.time.tick + move ≤ 1023 → t.time.tick = s.time.tick + move ∧ t.time.completionDue = false) ∧
        (1023 < s.time.tick + move → t.time.tick = s.time.tick ∧ t.time.completionDue = true)) ∧
      s.arbiter.silence.ticked t.arbiter.silence ∧ s.arbiter.yield.ticked t.arbiter.yield ∧
      (∀ k : Chain, t.composer.views[k] = { s.composer.views[k] with
          pageTimer := t.composer.views[k].pageTimer, partTimer := t.composer.views[k].partTimer } ∧
        s.composer.views[k].pageTimer.ticked t.composer.views[k].pageTimer ∧
        s.composer.views[k].partTimer.ticked t.composer.views[k].partTimer) ∧
      (∀ k : Chain, t.links[k] = { s.links[k] with refresh := t.links[k].refresh } ∧
        s.links[k].refresh.ticked t.links[k].refresh) ∧
      (∀ l : Line, t.clock.lines[l] = { s.clock.lines[l] with spacing := t.clock.lines[l].spacing } ∧
        s.clock.lines[l].spacing.ticked t.clock.lines[l].spacing)) ∧
  (∀ s t : State, s.released → s.time.completionDue = true → exec .secondCompletion s = .next t →
    exec .tickArrival s = exec .tickArrival t ∧ (s.time.state ≠ .unset → t.time.completionDue = false))

/-- The completion of a second that a tick has made due (R2 with R1, R4, R7; logs 11 and 13): F to 0 and S on by one;
the next second begins with its adjustment, of at most 16 ticks, taken off Q; in RUNNING a new minute is delivered to
the four blocks, and a wrap begins the rollover with the minute event for 0 behind it; in HOLDING a completion that
reaches h ends the hold without a minute event. The completion is then due no longer, and the reference state, the
pulse interval and the pulse counters stand. While a rollover is in progress what is delivered waits behind its
stages. The pulse interval runs on every tick arrival, in every time state. -/
def Obligations.SecondCompletionAdvancesTrueTime : Prop :=
  (∀ s : State, s.released → s.time.completionDue = true → s.time.state ≠ .unset → s.time.rollover = none →
    ∃ t : State, exec .secondCompletion s = .next t ∧
      t.time = { s.time with
        second := t.time.second, tick := 0, slew := t.time.slew, adjustment := t.time.adjustment, secondTicks := 0
        completionDue := false, state := t.time.state, rollover := t.time.rollover, outbox := t.time.outbox } ∧
      t.time.second = (if s.time.second = 86399 then 0 else s.time.second + 1) ∧
      (0 < s.time.slew → t.time.adjustment = .shortened (min s.time.slew.natAbs 16) ∧
        t.time.slew = s.time.slew - (min s.time.slew.natAbs 16 : Nat)) ∧
      (s.time.slew < 0 → t.time.adjustment = .lengthened (min s.time.slew.natAbs 16) ∧
        t.time.slew = s.time.slew + (min s.time.slew.natAbs 16 : Nat)) ∧
      (s.time.slew = 0 → t.time.adjustment = .normal ∧ t.time.slew = 0) ∧
      (s.time.state = .running → t.time.state = .running ∧ t.ports = s.ports ∧
        (s.time.second ≠ 86399 → (s.time.second + 1) / 60 ≠ s.time.second / 60 →
          t.table.inbox = s.table.inbox ++ [.minute ((s.time.second + 1) / 60)] ∧
          t.cues.minutes = s.cues.minutes ++ [(s.time.second + 1) / 60] ∧
          t.composer.inbox = s.composer.inbox ++ [.minute ((s.time.second + 1) / 60)] ∧
          t.clock.inbox = s.clock.inbox ++ [(s.time.second + 1) / 60]) ∧
        (s.time.second ≠ 86399 → (s.time.second + 1) / 60 = s.time.second / 60 → t = { s with time := t.time }) ∧
        (s.time.second = 86399 → t.table.inbox = s.table.inbox ++ [.rebase] ∧ t.time.rollover = some .table ∧
          t.time.outbox = [.minute 0] ∧ t.clock.inbox = s.clock.inbox ∧ t.cues = s.cues ∧ t.composer = s.composer)) ∧
      (∀ h, s.time.state = .holding h →
        t.time.state = (if (if s.time.second = 86399 then 0 else s.time.second + 1) / 60 = h then .running
          else .holding h) ∧
        t.table = s.table ∧ t.cues = s.cues ∧ t.composer = s.composer ∧ t.clock = s.clock) ∧
      t = { s with
        time := t.time, ports := t.ports, table := { s.table with inbox := t.table.inbox }
        cues := { s.cues with minutes := t.cues.minutes }, composer := { s.composer with inbox := t.composer.inbox }
        clock := { s.clock with inbox := t.clock.inbox } }) ∧
  (∀ (s : State) (stage : RolloverStage), s.released → s.time.completionDue = true → s.time.state ≠ .unset →
    s.time.rollover = some stage →
    ∃ t : State, exec .secondCompletion s = .next t ∧ t = { s with time := t.time, ports := t.ports } ∧
      t.time = { s.time with
        second := t.time.second, tick := 0, slew := t.time.slew, adjustment := t.time.adjustment, secondTicks := 0
        completionDue := false, state := t.time.state, outbox := t.time.outbox } ∧
      (s.time.state = .running → t.time.state = .running) ∧
      (∀ h, s.time.state = .holding h → t.time.state = if t.time.second / 60 = h then .running else .holding h) ∧
      t.time.second = (if s.time.second = 86399 then 0 else s.time.second + 1) ∧
      t.time.outbox = s.time.outbox ++
        if s.time.state ≠ .running then []
        else if s.time.second = 86399 then [.rollover, .minute 0]
        else if (s.time.second + 1) / 60 ≠ s.time.second / 60 then [.minute ((s.time.second + 1) / 60)]
        else []) ∧
  (∀ s : State, s.released → ∃ t : State, exec .tickArrival s = .next t ∧
    t.time.pulseInterval = s.time.pulseInterval.map (· + 1))

/-- The slew of R11: an error within the limit replaces Q by −e; S, F, the time state and the second in progress
stand, and Q stays within its range. The acceptance itself counts the pulse, restarts the interval and gives LOCKED
(R8, R9): where the reference is LOCKED already no event is raised at all, and else none but that of R9. -/
def Obligations.PulseWithinTheLimitSetsTheSlew : Prop :=
  ∀ (s : State) (c : Nat) (e : Int), s.released → s.time.state ≠ .unset →
    (s.time.pulseInterval = none ∨ ∃ ticks, s.time.pulseInterval = some ticks ∧ 51200 ≤ ticks) →
    c = s.time.second % 60 * 1024 + s.time.tick → e = (if c < 30720 then (c : Int) else (c : Int) - 61440) →
    e.natAbs ≤ s.settings.stepLimit * 1024 → s.settings.stepLimit ≤ 8 →
    ∃ t : State, exec .minutePulse s = .next t ∧
      t = { s with
        ports := t.ports
        time := { s.time with
          slew := -e, pulseInterval := some 0, ref := .locked
          accepted := if s.time.accepted = 0xFFFF then 0xFFFF else s.time.accepted + 1 } } ∧
      (s.time.ref = .locked → t.ports = s.ports) ∧
      (s.time.ref ≠ .locked → s.ports.p0.watch = none → s.ports.p1.watch = none →
        t.ports = (s.raiseRouted .timeRefRegained).ports) ∧ -8192 ≤ t.time.slew ∧ t.time.slew ≤ 8192

/-- The backward pulse step of R12: an error above the limit takes S back to the start of its minute, with F and Q 0
and a new NORMAL second; no minute event is delivered, the time state and every block's working minute stand, and
TIME_STEPPED is raised with kind pulse step and the board minute, as its routing item directs; where a rollover is in
progress, its raising is part of the statement on the reference state. The acceptance of the pulse counts it, restarts
the interval and gives LOCKED (R8, R9). -/
def Obligations.PulseBeyondTheLimitStepsBack : Prop :=
  ∀ (s : State) (c : Nat), s.released → s.time.state ≠ .unset →
    (s.time.pulseInterval = none ∨ ∃ ticks, s.time.pulseInterval = some ticks ∧ 51200 ≤ ticks) →
    c = s.time.second % 60 * 1024 + s.time.tick → c < 30720 → s.settings.stepLimit * 1024 < c →
    ∃ s' t : State, exec .minutePulse s = .next t ∧
      s' = { s with
        ports := s'.ports
        time := { s.time with
          ref := .locked, pulseInterval := some 0
          accepted := if s.time.accepted = 0xFFFF then 0xFFFF else s.time.accepted + 1 } } ∧
      (s.time.ref = .locked → s'.ports = s.ports) ∧
      (s.time.ref ≠ .locked → s.ports.p0.watch = none → s.ports.p1.watch = none →
        s'.ports = (s.raiseRouted .timeRefRegained).ports) ∧
      t.time = { s'.time with
        second := s.time.second - s.time.second % 60, tick := 0, slew := 0, adjustment := .normal, secondTicks := 0
        completionDue := false, outbox := t.time.outbox } ∧
      t.time.second / 60 = s.time.second / 60 ∧ t = { s' with time := t.time, ports := t.ports } ∧
      (s.time.rollover = none → t.time.outbox = [] ∧
        t.ports = (s'.raiseRouted (.timeStepped .pulseStep s.time.boardMinute)).ports) ∧
      (∀ q : Ctrl, s.time.rollover = none → s.routes s.settings.routing.timeStepped q →
        (s.port q.port).enables.getLsbD 6 = true →
        Event.timeStepped .pulseStep s.time.boardMinute ∈ (t.port q.port).events)

/-- Pulses and the reference state (R8, R9, R10): a pulse less than 50 s after the last accepted one is counted as
spurious and changes nothing else; an accepted one in UNSET acts on the reference state alone, LOCKED with
TIME_REF_REGAINED where it was not LOCKED already; the 180 s expiry gives LOST with TIME_REF_LOST in LOCKED, and
causes nothing in NO_REF and LOST. An accepted pulse whose error exceeds the limit and is negative steps the time
forward to the start of the next minute (R13), as every forward step goes (R6). While a rollover is in progress, the
TIME_STEPPED of a backward pulse step waits behind its stages (log 13). -/
def Obligations.PulsesMoveTheReferenceState : Prop :=
  (∀ (s : State) (ticks : Nat), s.released → s.time.pulseInterval = some ticks → ticks < 51200 →
    exec .minutePulse s = .next { s with time := { s.time with
      spurious := if s.time.spurious = 0xFFFF then 0xFFFF else s.time.spurious + 1 } }) ∧
  (∀ s : State, s.released → s.time.state = .unset → s.time.ref ≠ .locked →
    (s.time.pulseInterval = none ∨ ∃ ticks, s.time.pulseInterval = some ticks ∧ 51200 ≤ ticks) →
    s.ports.p0.watch = none → s.ports.p1.watch = none →
    exec .minutePulse s = .next (({ s with time := { s.time with
      ref := .locked, pulseInterval := some 0
      accepted := if s.time.accepted = 0xFFFF then 0xFFFF else s.time.accepted + 1 } } : State).raiseRouted
        .timeRefRegained)) ∧
  (∀ (s : State) (ticks : Nat), s.released → s.time.pulseInterval = some ticks → 184320 ≤ ticks →
    (s.time.ref = .locked → s.ports.p0.watch = none → s.ports.p1.watch = none →
      exec .pulseIntervalExpiry s =
        .next (({ s with time := { s.time with ref := .lost } } : State).raiseRouted .timeRefLost)) ∧
    (s.time.ref ≠ .locked → exec .pulseIntervalExpiry s = .next s)) ∧
  (∀ (s : State) (c : Nat), s.released → s.time.state ≠ .unset → s.time.rollover ≠ none →
    (s.time.pulseInterval = none ∨ ∃ ticks, s.time.pulseInterval = some ticks ∧ 51200 ≤ ticks) →
    c = s.time.second % 60 * 1024 + s.time.tick → c < 30720 → s.settings.stepLimit * 1024 < c →
    ∃ t : State, exec .minutePulse s = .next t ∧
      t = { s with
        ports := t.ports
        time := { s.time with
          second := s.time.second - s.time.second % 60, tick := 0, slew := 0, adjustment := .normal, secondTicks := 0
          completionDue := false, ref := .locked, pulseInterval := some 0
          accepted := if s.time.accepted = 0xFFFF then 0xFFFF else s.time.accepted + 1
          outbox := s.time.outbox ++ [.event (.timeStepped .pulseStep s.time.boardMinute)] } } ∧
      (s.time.ref = .locked → t.ports = s.ports) ∧
      (s.time.ref ≠ .locked → s.ports.p0.watch = none → s.ports.p1.watch = none →
        t.ports = (s.raiseRouted .timeRefRegained).ports)) ∧
  (∀ s : State, s.released → s.time.state = .unset → s.time.ref = .locked →
    (s.time.pulseInterval = none ∨ ∃ ticks, s.time.pulseInterval = some ticks ∧ 51200 ≤ ticks) →
    exec .minutePulse s = .next { s with time := { s.time with
      pulseInterval := some 0
      accepted := if s.time.accepted = 0xFFFF then 0xFFFF else s.time.accepted + 1 } }) ∧
  (∀ (s : State) (c : Nat), s.released → s.time.state ≠ .unset →
    (s.time.pulseInterval = none ∨ ∃ ticks, s.time.pulseInterval = some ticks ∧ 51200 ≤ ticks) →
    c = s.time.second % 60 * 1024 + s.time.tick → 30720 ≤ c → c < 61440 → s.settings.stepLimit * 1024 < 61440 - c →
    ∃ s' t : State, exec .minutePulse s = .next t ∧
      s' = { s with
        ports := s'.ports
        time := { s.time with
          ref := .locked, pulseInterval := some 0
          accepted := if s.time.accepted = 0xFFFF then 0xFFFF else s.time.accepted + 1 } } ∧
      (s.time.ref = .locked → s'.ports = s.ports) ∧
      (s.time.ref ≠ .locked → s.ports.p0.watch = none → s.ports.p1.watch = none →
        s'.ports = (s.raiseRouted .timeRefRegained).ports) ∧
      s'.stepsForward t ((s.time.second + 60 - s.time.second % 60) % 86400) .pulseStep [])

/-- SET TIME (R14, R15, R16). The first one, in UNSET: the time becomes RUNNING at the target second, the minute event
is delivered to the four blocks, TIME_STEPPED (forward) is raised, and the reply is DONE. One with d ≥ 0 is a forward
step (R15, R6), with the reply DONE behind what the step delivers. A backward one beyond 3600 s is refused
OUT_OF_WINDOW and changes nothing; one within the present board minute sets the count, keeps the time state and raises
nothing; one that would hold more than 60 minutes is refused OUT_OF_WINDOW and changes nothing; any other begins or
continues HOLDING at the present board minute, delivers no minute event and raises TIME_STEPPED (hold). While a
rollover is in progress the refusals are answered at once, and of any other the time is set at once, while its events
and its reply wait behind the stages, the command still in service (log 13). -/
def Obligations.SetTimeStartsOrHoldsTheTime : Prop :=
  (∀ (c : Ctrl) (payload : List Byte) (s : State), s.commanded c.port codeSetTime payload →
    s.arbiter.holder = some c → payload.length = 3 → u24At payload 0 ≤ 86399 → s.time.state = .unset →
    s.time.rollover = none →
    ∀ target, target = (((u24At payload 0 : Int) - 60 * s.settings.dayStart) % 86400).toNat →
    ∃ t : State, exec (.setTime c) s = .next t ∧
      t.time = { s.time with
        state := .running, second := target, tick := 0, slew := 0, adjustment := .normal, secondTicks := 0
        completionDue := false, rollover := none, outbox := [] } ∧
      t.table.inbox = s.table.inbox ++ [.minute (target / 60)] ∧ t.cues.minutes = s.cues.minutes ++ [target / 60] ∧
      t.composer.inbox = s.composer.inbox ++ [.minute (target / 60)] ∧ t.clock.inbox = s.clock.inbox ++ [target / 60] ∧
      (t.port c.port).service = .serving codeSetTime payload (.replied ⟨.done, []⟩) ∧
      (∀ q : Ctrl, s.routes s.settings.routing.timeStepped q → (s.port q.port).enables.getLsbD 6 = true →
        Event.timeStepped .forward (target / 60) ∈ (t.port q.port).events) ∧
      t = { s with
        time := t.time, ports := t.ports, table := { s.table with inbox := t.table.inbox }
        cues := { s.cues with minutes := t.cues.minutes }, composer := { s.composer with inbox := t.composer.inbox }
        clock := { s.clock with inbox := t.clock.inbox } }) ∧
  (∀ (c : Ctrl) (payload : List Byte) (s : State), s.commanded c.port codeSetTime payload →
    s.arbiter.holder = some c → payload.length = 3 → u24At payload 0 ≤ 86399 → s.time.state ≠ .unset →
    ∀ (target : Nat) (d : Int), target = (((u24At payload 0 : Int) - 60 * s.settings.dayStart) % 86400).toNat →
    d = (if ((target : Int) - s.time.second) % 86400 ≥ 43200 then ((target : Int) - s.time.second) % 86400 - 86400
      else ((target : Int) - s.time.second) % 86400) →
    (0 ≤ d → ∃ t : State, exec (.setTime c) s = .next t ∧ s.stepsForward t target .forward [.reply c] ∧
      (t.time.rollover = none → (t.port c.port).service = .serving codeSetTime payload (.replied ⟨.done, []⟩)) ∧
      (t.time.rollover ≠ none → (t.port c.port).service = .serving codeSetTime payload .taken)) ∧
    (d < -3600 → exec (.setTime c) s = .next (s.answered c.port codeSetTime payload ⟨.outOfWindow, []⟩)) ∧
    (-3600 ≤ d → d < 0 → target / 60 = s.time.boardMinute → s.time.rollover = none →
      ∃ t : State, exec (.setTime c) s = .next t ∧
        t.time = { s.time with
          second := target, tick := 0, slew := 0, adjustment := .normal, secondTicks := 0, completionDue := false
          rollover := none, outbox := [] } ∧
        t = { s.answered c.port codeSetTime payload ⟨.done, []⟩ with time := t.time }) ∧
    (-3600 ≤ d → d < 0 → target / 60 = s.time.boardMinute → s.time.rollover ≠ none →
      exec (.setTime c) s = .next { s.setService c.port (.serving codeSetTime payload .taken) with
        time := { s.time with
          second := target, tick := 0, slew := 0, adjustment := .normal, secondTicks := 0, completionDue := false
          outbox := s.time.outbox ++ [.reply c] } }) ∧
    (-3600 ≤ d → d < 0 → target / 60 ≠ s.time.boardMinute →
      60 < ((s.time.boardMinute : Int) - (target / 60 : Nat)) % 1440 →
      exec (.setTime c) s = .next (s.answered c.port codeSetTime payload ⟨.outOfWindow, []⟩)) ∧
    (-3600 ≤ d → d < 0 → target / 60 ≠ s.time.boardMinute →
      ((s.time.boardMinute : Int) - (target / 60 : Nat)) % 1440 ≤ 60 → s.time.rollover = none →
      ∃ t : State, exec (.setTime c) s = .next t ∧ t = { s with time := t.time, ports := t.ports } ∧
        t.time = { s.time with
          state := .holding s.time.boardMinute, second := target, tick := 0, slew := 0, adjustment := .normal
          secondTicks := 0, completionDue := false, rollover := none, outbox := [] } ∧
        (t.port c.port).service = .serving codeSetTime payload (.replied ⟨.done, []⟩) ∧
        ∀ q : Ctrl, s.routes s.settings.routing.timeStepped q → (s.port q.port).enables.getLsbD 6 = true →
          Event.timeStepped .hold s.time.boardMinute ∈ (t.port q.port).events) ∧
    (-3600 ≤ d → d < 0 → target / 60 ≠ s.time.boardMinute →
      ((s.time.boardMinute : Int) - (target / 60 : Nat)) % 1440 ≤ 60 → s.time.rollover ≠ none →
      ∃ t : State, exec (.setTime c) s = .next t ∧ t = { s with time := t.time, ports := t.ports } ∧
        t.time = { s.time with
          state := .holding s.time.boardMinute, second := target, tick := 0, slew := 0, adjustment := .normal
          secondTicks := 0, completionDue := false
          outbox := s.time.outbox ++ [.event (.timeStepped .hold s.time.boardMinute), .reply c] } ∧
        (t.port c.port).service = .serving codeSetTime payload .taken))

/-- READ TIME on every port: the 18 bytes of 10.8 for the time as it stands, and nothing changed (R19). The hold
minute field is free where no hold minute is held (log 19). -/
def Obligations.ReadTimeReportsTheTime : Prop :=
  ∀ (p : Port) (s : State), s.commanded p codeReadTime [] →
    ∃ payload, exec (.readTime p) s = .next (s.answered p codeReadTime [] ⟨.done, payload⟩) ∧ payload.length = 18 ∧
      payload.take 9 =
        [timeItem s.time, refItem s.time, byte (s.time.second / 65536), byte (s.time.second / 256), byte s.time.second,
         byte (s.time.tick / 256), byte s.time.tick, byte (s.time.boardMinute / 256), byte s.time.boardMinute] ∧
      (∀ h, s.time.state = .holding h → (payload.drop 9).take 3 = [1, byte (h / 256), byte h]) ∧
      ((∀ h, s.time.state ≠ .holding h) → (payload.drop 9).take 1 = [0]) ∧
      payload.drop 12 = beInt s.time.slew ++ beCounter s.time.accepted ++ beCounter s.time.spurious

/-! ### The departure table (chapters 2 and 3) -/

/-- INSERT DEPARTURE: the record of R37 in the lowest free slot, WAITING while the table is UNTIMED, its expected
minute through the stored-time stage of R55, with the delay announcement of R65 where an expected minute is given; in
TIMED mode it is at once what its evaluation at the working minute makes of it (R33, R66), with the evaluation's
notifications and the conflict check; and the refusals of R36, in order, which change nothing. -/
def Obligations.InsertPlacesTheRecord : Prop :=
  ∀ (c : Ctrl) (payload : List Byte) (q : InsertRequest) (s : State),
    s.commanded c.port codeInsertDeparture payload → s.arbiter.holder = some c → parseInsert payload = some q →
    ((q.sched < 0 ∨ 1679 < q.sched ∨ (s.table.timed = true ∧ q.sched < s.table.working - 15)) →
      exec (.insertDeparture c) s = .next (s.answered c.port codeInsertDeparture payload ⟨.outOfWindow, []⟩)) ∧
    (0 ≤ q.sched → q.sched ≤ 1679 → (s.table.timed = true → s.table.working - 15 ≤ q.sched) →
      ((∃ (j : Slot) (r : Record), s.table.slots[j] = some r ∧ r.code = q.code) →
        exec (.insertDeparture c) s = .next (s.answered c.port codeInsertDeparture payload ⟨.duplicate, []⟩)) ∧
      ((∀ (j : Slot) (r : Record), s.table.slots[j] = some r → r.code ≠ q.code) →
        ((∀ j : Slot, s.table.slots[j] ≠ none) →
          exec (.insertDeparture c) s = .next (s.answered c.port codeInsertDeparture payload ⟨.tableFull, []⟩)) ∧
        (∀ i : Slot, s.table.slots[i] = none → (∀ j : Slot, j < i → s.table.slots[j] ≠ none) →
          ∃ (t : State) (r : Record) (issues : List Issue), exec (.insertDeparture c) s = .next t ∧
            t.table.slots[i] = some r ∧ r.code = q.code ∧
            r.sched = q.sched ∧ r.platform = q.platform ∧ r.previous = none ∧ r.destination = q.destination ∧
            r.via = q.via ∧ r.remark = q.remark ∧ r.sector = q.sector ∧ r.mask = q.mask ∧
            (q.expected = none → r.expected = none ∧ r.clamped = false ∧ r.lastDelay = none) ∧
            (∀ x, q.expected = some x →
              (x < q.sched → r.expected = some q.sched ∧ r.clamped = true) ∧
              (q.sched + 719 < x → r.expected = some (q.sched + 719) ∧ r.clamped = true) ∧
              (q.sched ≤ x → x ≤ q.sched + 719 → r.expected = some x ∧ r.clamped = false)) ∧
            ((q.expected ≠ none ∧ q.mask.getLsbD 3 = true ∧ s.settings.delayCueThreshold ≤ r.delay ∧
                s.settings.delayCueStep ≤ r.delay.natAbs) →
              r.lastDelay = some r.delay ∧ issues = [⟨.delay, i, q.code, q.platform, none, r.effective, r.delay, q.destination,
                q.remark, s.table.working⟩]) ∧
            ((q.expected = none ∨ q.mask.getLsbD 3 = false ∨ r.delay < s.settings.delayCueThreshold ∨
                r.delay.natAbs < s.settings.delayCueStep) →
              r.lastDelay = none ∧ issues = []) ∧
            (s.table.timed = false → r.state = .waiting ∧ r.callIssued = false ∧ r.closingIssued = false) ∧
            i ∈ t.table.order ∧
            (∀ x : Record,
              x = { r with state := .waiting, callIssued := false, closingIssued := false, conflict := false } →
              s.changesRecord t c codeInsertDeparture payload i x
                (evaluate s.settings s.table.timed s.table.working x) [] false none issues))))

/-- AMEND EXPECTED: refused WRONG_STATE in GONE and CANCELLED; else the expected minute is stored by R55 or removed,
and no other field of the departure is given (R38). Where E changes, a refresh is handed and the delay announcement
runs: a DELAY issue, with the last announced delay set, where DELAY is in the mask, D has reached the threshold, and D
differs from the last announced delay by the step or more (R65). Where E does not change neither is handed. The record
is then what its evaluation at the working minute makes of it (R33, R66), with the evaluation's notifications and the
conflict check. -/
def Obligations.AmendStoresTheForecast : Prop :=
  ∀ (c : Ctrl) (payload code : List Byte) (given : Option Int) (i : Slot) (r : Record) (s : State),
    s.commanded c.port codeAmendExpected payload → s.arbiter.holder = some c →
    parseCodeAnd 11 optMinuteAt payload = some (code, given) → s.table.findCode code = some i →
    s.table.slots[i] = some r →
    (((∃ m, r.state = .gone m) ∨ ∃ m, r.state = .cancelled m) →
      exec (.amendExpected c) s = .next (s.answered c.port codeAmendExpected payload ⟨.wrongState, []⟩)) ∧
    ((r.state = .waiting ∨ r.state = .called ∨ r.state = .closing) →
      ∃ (t : State) (r' : Record) (issues : List Issue), exec (.amendExpected c) s = .next t ∧
        t.table.slots[i] = some r' ∧ r'.code = r.code ∧
        r'.sched = r.sched ∧ r'.platform = r.platform ∧ r'.destination = r.destination ∧ r'.via = r.via ∧
        r'.remark = r.remark ∧ r'.sector = r.sector ∧ r'.mask = r.mask ∧
        (given = none → r'.expected = none ∧ r'.clamped = false) ∧
        (∀ x, given = some x →
          (x < r.sched → r'.expected = some r.sched ∧ r'.clamped = true) ∧
          (r.sched + 719 < x → r'.expected = some (r.sched + 719) ∧ r'.clamped = true) ∧
          (r.sched ≤ x → x ≤ r.sched + 719 → r'.expected = some x ∧ r'.clamped = false)) ∧
        ((r'.effective ≠ r.effective ∧ r.mask.getLsbD 3 = true ∧ s.settings.delayCueThreshold ≤ r'.delay ∧
            s.settings.delayCueStep ≤ (r'.delay - r.lastDelay.getD 0).natAbs) →
          r'.lastDelay = some r'.delay ∧ issues = [⟨.delay, i, r.code, r.platform, none, r'.effective, r'.delay,
            r.destination, r.remark, s.table.working⟩]) ∧
        ((r'.effective = r.effective ∨ r.mask.getLsbD 3 = false ∨ r'.delay < s.settings.delayCueThreshold ∨
            (r'.delay - r.lastDelay.getD 0).natAbs < s.settings.delayCueStep) →
          r'.lastDelay = r.lastDelay ∧ issues = []) ∧
        (∀ x : Record, x = { r with expected := r'.expected, clamped := r'.clamped, lastDelay := r'.lastDelay } →
          s.changesRecord t c codeAmendExpected payload i x (evaluate s.settings s.table.timed s.table.working x) []
            (decide (r'.effective ≠ r.effective)) none issues))

/-- ASSIGN PLATFORM: the platform held changes nothing; a first assignment sets it; a change to a different platform
keeps the former one as previous and hands PLATFORM_CHANGE where the mask has it; 0 removes platform and previous
platform, with the withdrawal of CALL, CLOSING and PLATFORM_CHANGE; each of the three hands a refresh, and the record
is then what its evaluation at the working minute makes of it (R33, R66), with the evaluation's notifications and the
conflict check: with CHANGE FLASH at 0 the previous platform is gone at once (R58). GONE and CANCELLED are refused
(R39, R40, R41). -/
def Obligations.AssignPlatformFollowsItsCases : Prop :=
  ∀ (c : Ctrl) (payload code : List Byte) (given : Option Nat) (i : Slot) (r : Record) (s : State),
    s.commanded c.port codeAssignPlatform payload → s.arbiter.holder = some c →
    parseCodeAnd 10 platformAt payload = some (code, given) → s.table.findCode code = some i →
    s.table.slots[i] = some r →
    (((∃ m, r.state = .gone m) ∨ ∃ m, r.state = .cancelled m) →
      exec (.assignPlatform c) s = .next (s.answered c.port codeAssignPlatform payload ⟨.wrongState, []⟩)) ∧
    ((r.state = .waiting ∨ r.state = .called ∨ r.state = .closing) →
      (given = r.platform →
        exec (.assignPlatform c) s = .next (s.answered c.port codeAssignPlatform payload ⟨.done, []⟩)) ∧
      (given ≠ r.platform →
        ∃ (t : State) (r' x : Record) (withdraw : List CueKind) (issues : List Issue),
          exec (.assignPlatform c) s = .next t ∧ t.table.slots[i] = some r' ∧ r'.platform = given ∧
          r'.code = r.code ∧ r'.sched = r.sched ∧ r'.expected = r.expected ∧ r'.destination = r.destination ∧
          r'.via = r.via ∧ r'.remark = r.remark ∧ r'.sector = r.sector ∧ r'.mask = r.mask ∧
          r'.lastDelay = r.lastDelay ∧
          (∀ q, r.platform = none → given = some q →
            x = { r with platform := some q } ∧ withdraw = [] ∧ issues = []) ∧
          (∀ p q, r.platform = some p → given = some q →
            x = { r with platform := some q, previous := some (p, s.table.working) } ∧ withdraw = [] ∧
            issues = (if r.mask.getLsbD 2 = true then
              [⟨.platformChange, i, r.code, some q, some p, r.effective, r.delay, r.destination, r.remark,
                s.table.working⟩] else []) ∧
            (0 < s.settings.changeFlash → r'.previous = some (p, s.table.working)) ∧
            (s.settings.changeFlash = 0 → r'.previous = none)) ∧
          (given = none → x = { r with platform := none, previous := none } ∧ r'.previous = none ∧
            withdraw = [.call, .closing, .platformChange] ∧ issues = []) ∧
          s.changesRecord t c codeAssignPlatform payload i x (evaluate s.settings s.table.timed s.table.working x)
            withdraw true none issues))

/-- SET REMARK, SET SECTOR and SET ANNOUNCE MASK set their field in every record state, hand what R42, R43 and R44
give, and change nothing else: no evaluation, no conflict check. -/
def Obligations.EditsSetOneFieldAndHandTheirNotifications : Prop :=
  ∀ (c : Ctrl) (payload code : List Byte) (i : Slot) (r : Record) (s : State),
    s.arbiter.holder = some c → s.table.findCode code = some i → s.table.slots[i] = some r →
    (∀ x : Option TextRef, s.commanded c.port codeSetRemark payload →
      parseCodeAnd 12 optRefAt payload = some (code, x) →
      exec (.setRemark c) s = .next ((({ s with table := { s.table with
        slots := put s.table.slots i (some { r with remark := x }) } } : State).hand (some c)
          (if r.remark = x then [] else [.refresh ⟨i, r.platform, r.effective, r.delay, x⟩])).answered
            c.port codeSetRemark payload ⟨.done, []⟩)) ∧
    (∀ x : Fin 4, s.commanded c.port codeSetSector payload → parseCodeAnd 10 sectorAt payload = some (code, x) →
      exec (.setSector c) s = .next ((({ s with table := { s.table with
        slots := put s.table.slots i (some { r with sector := x }) } } : State).hand (some c)
          [.refresh ⟨i, r.platform, r.effective, r.delay, r.remark⟩]).answered
            c.port codeSetSector payload ⟨.done, []⟩)) ∧
    (∀ x : BitVec 5, s.commanded c.port codeSetAnnounceMask payload →
      parseCodeAnd 10 maskAt payload = some (code, x) →
      ∃ ns, exec (.setAnnounceMask c) s = .next ((({ s with table := { s.table with
          slots := put s.table.slots i (some { r with mask := x }) } } : State).hand (some c)
            (ns ++ [.refresh ⟨i, r.platform, r.effective, r.delay, r.remark⟩])).answered
              c.port codeSetAnnounceMask payload ⟨.done, []⟩) ∧
        ((∀ b, b < 5 → r.mask.getLsbD b = true → x.getLsbD b = true) → ns = []) ∧
        ((∃ b, b < 5 ∧ r.mask.getLsbD b = true ∧ x.getLsbD b = false) → ∃ kinds, ns = [.withdraw i kinds] ∧
          ∀ k : CueKind, k ∈ kinds ↔ ∃ b, k.maskBit = some b ∧ r.mask.getLsbD b = true ∧ x.getLsbD b = false))

/-- CANCEL DEPARTURE and MARK DEPARTED of a live record: the state with the working minute as its minute, the
withdrawals and "record ended", and for a cancellation the CANCEL issue where the mask has it (R45, R47), without an
evaluation but with the conflict check; every other state is refused WRONG_STATE. -/
def Obligations.CancelAndDepartedEndTheRecord : Prop :=
  ∀ (c : Ctrl) (code payload : List Byte) (i : Slot) (r : Record) (s : State),
    s.arbiter.holder = some c → parseCode payload = some code → s.table.findCode code = some i →
    s.table.slots[i] = some r →
    (s.commanded c.port codeCancelDeparture payload →
      ((r.state = .waiting ∨ r.state = .called ∨ r.state = .closing) →
        ∃ t : State, exec (.cancelDeparture c) s = .next t ∧
          (t.table.slots[i]).map Record.unflagged = some { r with state := .cancelled s.table.working }.unflagged ∧
          t.cues.inbox = s.cues.inbox ++
            ([Notification.withdraw i [.call, .closing, .delay, .platformChange], .ended i .cancelled] ++
              if r.mask.getLsbD 4 = true then
                [Notification.issue ⟨.cancel, i, r.code, r.platform, none, r.effective, r.delay, r.destination, r.remark,
                  s.table.working⟩]
              else []).map (fun n => CueMessage.notice n (some c)) ∧
          (∀ x : Record, x = { r with state := .cancelled s.table.working } →
            s.changesRecord t c codeCancelDeparture payload i x ⟨some x, [], none, none, false⟩
              [.call, .closing, .delay, .platformChange] false (some .cancelled)
              (if r.mask.getLsbD 4 = true then
                [⟨.cancel, i, r.code, r.platform, none, r.effective, r.delay, r.destination, r.remark, s.table.working⟩]
              else []))) ∧
      (((∃ m, r.state = .gone m) ∨ ∃ m, r.state = .cancelled m) →
        exec (.cancelDeparture c) s = .next (s.answered c.port codeCancelDeparture payload ⟨.wrongState, []⟩))) ∧
    (s.commanded c.port codeMarkDeparted payload →
      ((r.state = .waiting ∨ r.state = .called ∨ r.state = .closing) →
        ∃ t : State, exec (.markDeparted c) s = .next t ∧
          (t.table.slots[i]).map Record.unflagged = some { r with state := .gone s.table.working }.unflagged ∧
          t.cues.inbox = s.cues.inbox ++
            [CueMessage.notice (.withdraw i [.call, .closing, .platformChange, .delay, .cancel]) (some c),
             .notice (.ended i .gone) (some c)] ∧
          (∀ x : Record, x = { r with state := .gone s.table.working } →
            s.changesRecord t c codeMarkDeparted payload i x ⟨some x, [], none, none, false⟩
              [.call, .closing, .platformChange, .delay, .cancel] false (some .gone) [])) ∧
      (((∃ m, r.state = .gone m) ∨ ∃ m, r.state = .cancelled m) →
        exec (.markDeparted c) s = .next (s.answered c.port codeMarkDeparted payload ⟨.wrongState, []⟩)))

/-- REINSTATE: from CANCELLED alone; the CANCEL cue is withdrawn first, the last announced delay is kept, and the
record is WAITING with clear flags while the table is UNTIMED, and else what its evaluation at the working minute
makes of that, with the evaluation's notifications and the conflict check: GONE at once where E plus DEPART GRACE has
passed (R46). -/
def Obligations.ReinstateReturnsACancelledRecord : Prop :=
  ∀ (c : Ctrl) (code payload : List Byte) (i : Slot) (r : Record) (s : State),
    s.commanded c.port codeReinstate payload → s.arbiter.holder = some c → parseCode payload = some code →
    s.table.findCode code = some i → s.table.slots[i] = some r →
    ((∀ m, r.state ≠ .cancelled m) →
      exec (.reinstate c) s = .next (s.answered c.port codeReinstate payload ⟨.wrongState, []⟩)) ∧
    (∀ m, r.state = .cancelled m →
      ∃ t r' rest, exec (.reinstate c) s = .next t ∧ t.table.slots[i] = some r' ∧ r'.code = r.code ∧
        r'.sched = r.sched ∧ r'.expected = r.expected ∧ r'.platform = r.platform ∧ r'.lastDelay = r.lastDelay ∧
        (s.table.timed = false → r'.state = .waiting ∧ r'.callIssued = false ∧ r'.closingIssued = false) ∧
        (s.table.timed = true → r.effective + s.settings.departGrace ≤ s.table.working →
          r'.state = .gone s.table.working) ∧
        t.cues.inbox = s.cues.inbox ++ CueMessage.notice (.withdraw i [.cancel]) (some c) :: rest ∧
        (∀ x : Record, x = { r with state := .waiting, callIssued := false, closingIssued := false } →
          s.changesRecord t c codeReinstate payload i x (evaluate s.settings s.table.timed s.table.working x) [.cancel]
            false none []))

/-- REMOVE DEPARTURE frees the slot at once, with every pair that contains it removed and the conflict flag of each
former partner recomputed from the pairs left, hands "slot freed" and raises nothing (R22, R48); CLEAR BOARD frees
every slot, empties the list and the pair set, hands one "board cleared" and raises BOARD_CHANGED with the lowest slot
that was occupied, or 0 (R49). -/
def Obligations.RemoveAndClearFreeTheSlots : Prop :=
  (∀ (c : Ctrl) (code payload : List Byte) (i : Slot) (s : State),
    s.commanded c.port codeRemoveDeparture payload → s.arbiter.holder = some c → parseCode payload = some code →
    s.table.findCode code = some i →
    ∃ t : State, exec (.removeDeparture c) s = .next (t.answered c.port codeRemoveDeparture payload ⟨.done, []⟩) ∧
      t.table.slots[i] = none ∧ t.table.order = s.table.order.filter (fun j => decide (j ≠ i)) ∧
      (∀ p, p ∈ t.table.pairs ↔ p ∈ s.table.pairs ∧ p.1 ≠ i ∧ p.2 ≠ i) ∧
      (∀ (j : Slot) (r : Record), j ≠ i → s.table.slots[j] = some r →
        (((i, j) ∈ s.table.pairs ∨ (j, i) ∈ s.table.pairs) → t.table.slots[j] = some { r with
          conflict := t.table.pairs.any fun p => p.1 == j || p.2 == j }) ∧
        ((i, j) ∉ s.table.pairs → (j, i) ∉ s.table.pairs → t.table.slots[j] = some r)) ∧
      (∀ j : Slot, s.table.slots[j] = none → t.table.slots[j] = none) ∧
      t.table = { s.table with slots := t.table.slots, order := t.table.order, pairs := t.table.pairs } ∧
      t = { s with table := t.table, cues := { s.cues with
        inbox := s.cues.inbox ++ [CueMessage.notice (.freed i) (some c)] } }) ∧
  (∀ (c : Ctrl) (low : Slot) (s : State),
    s.commanded c.port codeClearBoard [] → s.arbiter.holder = some c →
    (((∀ j : Slot, s.table.slots[j] = none) ∧ low = 0) ∨
      (s.table.slots[low] ≠ none ∧ ∀ j : Slot, j < low → s.table.slots[j] = none)) →
    ∃ t : State, exec (.clearBoard c) s =
        .next ((t.raiseRouted (.boardChanged low)).answered c.port codeClearBoard [] ⟨.done, []⟩) ∧
      (∀ j : Slot, t.table.slots[j] = none) ∧ t.table.order = [] ∧ t.table.pairs = [] ∧
      t = { s with
        table := { s.table with slots := t.table.slots, order := t.table.order, pairs := t.table.pairs }
        cues := { s.cues with inbox := s.cues.inbox ++ [CueMessage.notice .cleared (some c)] } })

/-- A minute event at the table (R29, R30): the working minute and TIMED, every record evaluated once at that minute,
in list order, with its notifications handed record by record (R26); the pair set made that of the conflicting pairs,
in ascending order, with every conflict flag following it and PLATFORM_CONFLICT raised for each pair added (R27, R28):
two records in CALLED or CLOSING with the same platform, their effective minutes less than CONFLICT WINDOW apart; then
BOARD_CHANGED with the lowest slot whose record changed its state or was freed, or nothing where there is none (R31).
Nothing else of the part changes. -/
def Obligations.TableMinuteEventEvaluatesEveryRecord : Prop :=
  (∀ (t : Table) (w : Nat) (i j : Slot), t.conflictPair w i j = true ↔
    ∃ (a b : Record) (p : Nat), t.slots[i] = some a ∧ t.slots[j] = some b ∧ (a.state = .called ∨ a.state = .closing) ∧
      (b.state = .called ∨ b.state = .closing) ∧ a.platform = some p ∧ b.platform = some p ∧
      (a.effective - b.effective).natAbs < w) ∧
  ∀ (n : Nat) (rest : List MinuteItem) (s : State), s.operating → s.table.inbox = .minute n :: rest → s.listSound →
    ∃ (t : State) (conflicts : List Event), exec .tableMinuteEvent s = .next t ∧ t.table.working = n ∧
      t.table.timed = true ∧ t.table.inbox = rest ∧
      (∀ i : Slot, s.table.slots[i] = none → t.table.slots[i] = none) ∧
      (∀ (i : Slot) (r : Record), s.table.slots[i] = some r →
        (t.table.slots[i]).map Record.unflagged = (evaluate s.settings true n r).record.map Record.unflagged) ∧
      t.table.order = s.table.order.filter (fun i => (t.table.slots[i]).isSome) ∧
      t.cues.inbox = s.cues.inbox ++ (s.table.order.flatMap fun i => match s.table.slots[i] with
        | none => []
        | some r =>
          (if (evaluate s.settings true n r).withdraw = [] then []
            else [Notification.withdraw i (evaluate s.settings true n r).withdraw]) ++
          (evaluate s.settings true n r).ended.toList.map (fun e => Notification.ended i e) ++
          (evaluate s.settings true n r).issue.toList.map (fun k => Notification.issue
            ⟨k, i, r.code, r.platform, none, r.effective, r.delay, r.destination, r.remark, n⟩) ++
          (if (evaluate s.settings true n r).record = none then [Notification.freed i] else [])).map
            (fun x => CueMessage.notice x none) ∧
      (∀ i j : Slot, (i, j) ∈ t.table.pairs ↔ i < j ∧ t.table.conflictPair s.settings.conflictWindow i j = true) ∧
      t.table.pairs.Pairwise (fun p q => p.1 < q.1 ∨ p.1 = q.1 ∧ p.2 < q.2) ∧
      (∀ (i : Slot) (r : Record), t.table.slots[i] = some r →
        (r.conflict = true ↔ ∃ j : Slot, (i, j) ∈ t.table.pairs ∨ (j, i) ∈ t.table.pairs)) ∧
      conflicts = (t.table.pairs.filter fun p => decide (p ∉ s.table.pairs)).map (fun p =>
        Event.platformConflict ((t.table.slots[p.1].bind fun r => r.platform).getD 0) p.1 p.2) ∧
      ((∀ (i : Slot) (r : Record), s.table.slots[i] = some r → (evaluate s.settings true n r).changed = false) →
        t.ports = (s.raiseAll conflicts).ports) ∧
      (∀ (low : Slot) (r : Record), s.table.slots[low] = some r → (evaluate s.settings true n r).changed = true →
        (∀ (i : Slot) (r : Record), s.table.slots[i] = some r → (evaluate s.settings true n r).changed = true →
          low ≤ i) →
        t.ports = (s.raiseAll (conflicts ++ [.boardChanged low])).ports) ∧
      s.changesTable t

/-- The evaluation of a record, case by case. In TIMED mode (R59 to R63), for a record without a previous platform:
GONE at E plus DEPART GRACE; CLOSING and CALLED where a platform is present, with the cue of R63 or without it; from
CLOSING back to CALLED, and back to WAITING, with the flags cleared and the cues withdrawn (R61); a record without a
platform is never called; GONE and CANCELLED records are freed after their holds; every other record is kept as it is.
In UNTIMED mode nothing is done (R57). In both a previous platform is removed first where its flash has expired, and
else is kept and changes nothing of this (R58). -/
def Obligations.EvaluationFollowsTheLifecycle : Prop :=
  (∀ (cfg : Settings) (n : Int) (r : Record), r.previous = none →
    evaluate cfg false n r = ⟨some r, [], none, none, false⟩ ∧
    ((r.state = .waiting ∨ r.state = .called ∨ r.state = .closing) → r.effective + cfg.departGrace ≤ n →
      evaluate cfg true n r = ⟨some { r with state := .gone n }, [.call, .closing], some .gone, none, true⟩) ∧
    (n < r.effective + cfg.departGrace → r.platform.isSome = true → r.effective - cfg.closeLead ≤ n →
      ((r.state = .waiting ∨ r.state = .called) → (n ≤ r.effective ∧ r.mask.getLsbD 1 = true ∧ r.closingIssued = false) →
        evaluate cfg true n r =
          ⟨some { r with state := .closing, closingIssued := true }, [.call], none, some .closing, true⟩) ∧
      ((r.state = .waiting ∨ r.state = .called) → (r.effective < n ∨ r.mask.getLsbD 1 = false ∨ r.closingIssued = true) →
        evaluate cfg true n r = ⟨some { r with state := .closing }, [.call], none, none, true⟩) ∧
      (r.state = .closing → evaluate cfg true n r = ⟨some r, [], none, none, false⟩)) ∧
    (n < r.effective + cfg.departGrace → r.platform.isSome = true → n < r.effective - cfg.closeLead →
      r.effective - cfg.callLead ≤ n →
      (r.state = .waiting → r.mask.getLsbD 0 = true → r.callIssued = false →
        evaluate cfg true n r = ⟨some { r with state := .called, callIssued := true }, [], none, some .call, true⟩) ∧
      (r.state = .waiting → (r.mask.getLsbD 0 = false ∨ r.callIssued = true) →
        evaluate cfg true n r = ⟨some { r with state := .called }, [], none, none, true⟩) ∧
      (r.state = .called → evaluate cfg true n r = ⟨some r, [], none, none, false⟩) ∧
      (r.state = .closing → evaluate cfg true n r =
        ⟨some { r with state := .called, closingIssued := false }, [.closing], none, none, true⟩)) ∧
    (n < r.effective + cfg.departGrace →
      (r.platform = none ∨ (n < r.effective - cfg.closeLead ∧ n < r.effective - cfg.callLead)) →
      (r.state = .waiting → evaluate cfg true n r = ⟨some r, [], none, none, false⟩) ∧
      ((r.state = .called ∨ r.state = .closing) →
        evaluate cfg true n r =
          ⟨some { r with state := .waiting, callIssued := false, closingIssued := false }, [.call, .closing], none, none,
            true⟩)) ∧
    (∀ g, r.state = .gone g →
      (g + cfg.goneHold ≤ n → evaluate cfg true n r = ⟨none, [], none, none, true⟩) ∧
      (n < g + cfg.goneHold → evaluate cfg true n r = ⟨some r, [], none, none, false⟩)) ∧
    (∀ m, r.state = .cancelled m →
      (max r.sched m + cfg.cancelHold ≤ n → evaluate cfg true n r = ⟨none, [], none, none, true⟩) ∧
      (n < max r.sched m + cfg.cancelHold → evaluate cfg true n r = ⟨some r, [], none, none, false⟩))) ∧
  (∀ (cfg : Settings) (timed : Bool) (n : Int) (r : Record) (p : Nat) (change : Int),
    r.previous = some (p, change) →
    (change + cfg.changeFlash ≤ n → evaluate cfg timed n r = evaluate cfg timed n { r with previous := none }) ∧
    (n < change + cfg.changeFlash → ∀ e, e = evaluate cfg timed n { r with previous := none } →
      evaluate cfg timed n r = { e with record := e.record.map fun x => { x with previous := r.previous } }))

/-- The rebase stage at the table (R24, R5): every minute of every record lowered by 1440 and held at -1440, with all
else of the record kept, the working minute lowered, the mode and the slots kept; the composer's and the scheduler's
stages follow (log 13). -/
def Obligations.TableRebaseLowersEveryMinute : Prop :=
  ∀ (rest : List MinuteItem) (s : State), s.operating → s.table.inbox = .rebase :: rest →
    ∃ t : State, exec .tableRebase s = .next t ∧ t.table.working = s.table.working - 1440 ∧ t.table.timed = s.table.timed ∧
      t.table.inbox = rest ∧ t.table.pairs = s.table.pairs ∧ t.time.rollover = some .composer ∧
      t.composer.inbox = s.composer.inbox ++ [.rebase] ∧ t.cues.inbox = s.cues.inbox ++ [.rebase] ∧
      (∀ i : Slot, s.table.slots[i] = none → t.table.slots[i] = none) ∧
      (∀ (i : Slot) (r : Record), s.table.slots[i] = some r → ∃ r', t.table.slots[i] = some r' ∧
        r' = { r with
          sched := max (r.sched - 1440) (-1440), expected := r.expected.map (fun m => max (m - 1440) (-1440))
          previous := r.previous.map (fun p => (p.1, max (p.2 - 1440) (-1440))), state := r'.state } ∧
        (∀ g, r.state = .gone g → r'.state = .gone (max (g - 1440) (-1440))) ∧
        (∀ g, r.state = .cancelled g → r'.state = .cancelled (max (g - 1440) (-1440))) ∧
        ((∀ g, r.state ≠ .gone g) → (∀ g, r.state ≠ .cancelled g) → r'.state = r.state)) ∧
      (∀ i : Slot, i ∈ t.table.order ↔ i ∈ s.table.order) ∧
      t = { s with table := t.table, time := { s.time with rollover := some .composer }
                   composer := { s.composer with inbox := t.composer.inbox }
                   cues := { s.cues with inbox := t.cues.inbox } }

/-- READ RECORD and READ LIST change nothing and answer from the table as it stands (R50, R51): a record, named by
slot or by service code, in the 39 bytes of 10.8, the value of an absent delay and the row of an absent reference
apart, which 10.8 leaves open (log 19), with 0 for an absent platform and a start position of one byte (the model's
choices, logs 42 and 45); the list length, the number of entries from the start position, at most 24, and each entry's
10 bytes. -/
def Obligations.TableReadsAnswerFromTheTable : Prop :=
  (∀ (c : Ctrl) (payload : List Byte) (i : Slot) (r : Record) (s : State),
    s.commanded c.port codeReadRecord payload → s.table.slots[i] = some r →
    (parseRecordName payload = some (.slot i) ∨
      ∃ code, parseRecordName payload = some (.code code) ∧ s.table.findCode code = some i) →
    ∃ bs noDelay noRow : List Byte,
      exec (.readRecord c) s = .next (s.answered c.port codeReadRecord payload ⟨.done, bs⟩) ∧
      bs.length = 39 ∧ noDelay.length = 2 ∧ noRow.length = 2 ∧
      bs = [byte i.val, byte (s.table.order.idxOf i + 1), byte r.code.length] ++ padTo 8 r.code ++
        [(match r.state with
          | .waiting => 0
          | .called => 1
          | .closing => 2
          | .gone _ => 3
          | .cancelled _ => 4),
         byte ((if r.expected.isSome then 128 else 0) + (if r.clamped then 64 else 0) +
          (if r.previous.isSome then 32 else 0) + (if r.via.isSome then 16 else 0) + (if r.remark.isSome then 8 else 0) +
          (if r.lastDelay.isSome then 4 else 0) + (if r.callIssued then 2 else 0) + (if r.closingIssued then 1 else 0)),
         (if r.conflict then 1 else 0)] ++
        beInt r.sched ++ beInt (r.expected.getD 0) ++
        beInt (match r.state with
          | .cancelled _ => r.sched
          | .waiting | .called | .closing | .gone _ => r.effective) ++
        [byte (r.platform.getD 0)] ++
        (match r.previous with
          | none => [0, 0x80, 0]
          | some (p, change) => byte p :: beInt change) ++
        (match r.state with
          | .cancelled m | .gone m => beInt m
          | .waiting | .called | .closing => [0, 0]) ++
        [byte r.sector.val, byte r.mask.toNat] ++
        (match r.lastDelay with
          | none => noDelay
          | some d => beInt d) ++
        be16 r.destination.row ++ [byte r.destination.len] ++
        (match r.via with
          | none => noRow ++ [0]
          | some x => be16 x.row ++ [byte x.len]) ++
        (match r.remark with
          | none => noRow ++ [0]
          | some x => be16 x.row ++ [byte x.len])) ∧
  (∀ (c : Ctrl) (start : Nat) (payload : List Byte) (s : State),
    s.commanded c.port codeReadList payload → parseStart payload = some start → s.listSound →
    ∃ bs : List Byte, exec (.readList c) s = .next (s.answered c.port codeReadList payload ⟨.done, bs⟩) ∧
      bs.take 2 = [byte s.table.order.length, byte (min 24 (s.table.order.length - (start - 1)))] ∧
      bs.length = 2 + 10 * min 24 (s.table.order.length - (start - 1)) ∧
      bs.drop 2 = ((s.table.order.drop (start - 1)).take 24).flatMap fun i => match s.table.slots[i] with
        | none => []
        | some r =>
          [byte i.val, (match r.state with
            | .waiting => 0
            | .called => 1
            | .closing => 2
            | .gone _ => 3
            | .cancelled _ => 4)] ++ beInt r.sortMinute ++ packCode r.code)

/-! ### Update authority (chapter 4) -/

/-- REQUEST AUTHORITY (R72, R73): from FREE, with no claim of the other port waiting, the requester is granted with
its silence timer started; where both ports claim, each by a REQUEST or by a SEIZE that SEIZE ENABLE allows, the port
of the PRI strap is granted and answered DONE, and the other waits and is answered PENDING, with YIELD_ASKED to the
PRI port, whichever claim is taken (log 16); the holder is answered DONE with nothing changed; a port that asks the
other holder waits, with YIELD_ASKED to the holder. -/
def Obligations.RequestGrantsOrWaits : Prop :=
  (∀ (q : Ctrl) (s : State), s.claims q = true ↔ ∃ code, (s.port q.port).service = .serving code [] .waiting ∧
    (code = codeRequestAuthority ∨ code = codeSeizeAuthority ∧ s.settings.seizeEnable = true)) ∧
  (∀ (c : Ctrl) (i : Instr) (claim : Ctrl → Byte) (w : Ctrl) (s : State),
    (∀ q, s.commanded q.port (claim q) [] ∧
      (claim q = codeRequestAuthority ∨ claim q = codeSeizeAuthority ∧ s.settings.seizeEnable = true)) →
    (i = .requestAuthority c ∧ claim c = codeRequestAuthority ∨ i = .seizeAuthority c ∧ claim c = codeSeizeAuthority) →
    s.arbiter.holder = none → w = (if s.ident.straps.pri then Ctrl.p1 else Ctrl.p0) →
    ∃ t : State, exec i s = .next t ∧
      t.arbiter = ⟨some w, some w.other, .running (s.settings.yieldTime * 1024000),
        .running (s.settings.holdSilence * 1024000)⟩ ∧
      t.repliedWith w.port (claim w) [] ⟨.done, []⟩ ∧ t.repliedWith w.other.port (claim w.other) [] ⟨.pending, []⟩ ∧
      ((s.port w.port).enables.getLsbD 4 = true → Event.yieldAsked w.other ∈ (t.port w.port).events) ∧
      t = { s with arbiter := t.arbiter, ports := t.ports }) ∧
  ∀ (c : Ctrl) (s : State), s.commanded c.port codeRequestAuthority [] →
    (s.arbiter.holder = none → s.claims c.other = false →
      ∃ t : State, exec (.requestAuthority c) s = .next t ∧ t.arbiter =
          { s.arbiter with holder := some c, silence := .running (s.settings.holdSilence * 1024000) } ∧
        t = { s with arbiter := t.arbiter, ports := t.ports } ∧
        t.repliedWith c.port codeRequestAuthority [] ⟨.done, []⟩) ∧
    (s.arbiter.holder = some c →
      exec (.requestAuthority c) s = .next (s.answered c.port codeRequestAuthority [] ⟨.done, []⟩)) ∧
    (s.arbiter.holder = some c.other →
      (s.arbiter.waiting = some c →
        exec (.requestAuthority c) s = .next (s.answered c.port codeRequestAuthority [] ⟨.pending, []⟩)) ∧
      (s.arbiter.waiting ≠ some c →
        exec (.requestAuthority c) s = .next ((({ s with arbiter := { s.arbiter with
          waiting := some c, yield := .running (s.settings.yieldTime * 1024000) } } : State).raise c.other.port
            (.yieldAsked c)).answered c.port codeRequestAuthority [] ⟨.pending, []⟩)))

/-- SEIZE AUTHORITY and RELEASE AUTHORITY (R74, R75, R78): refused BAD_COMMAND while SEIZE ENABLE is NO, whatever its
payload (the model's choice, log 17); a seizure from FREE, with no claim of the other port waiting, makes the sender
the holder (two claims are those of R73); one by the holder changes nothing; one from the other port ends the wait,
empties the former holder's buffer and makes the sender the holder; a release grants the waiting port, or leaves the
state FREE, with the releasing holder's buffer emptied; a waiting port's release ends its wait. -/
def Obligations.SeizeAndReleaseMoveAuthority : Prop :=
  (∀ (c : Ctrl) (payload : List Byte) (s : State), s.commanded c.port codeSeizeAuthority payload →
    (s.settings.seizeEnable = false →
      exec (.seizeAuthority c) s = .next (s.answered c.port codeSeizeAuthority payload ⟨.badCommand, []⟩)) ∧
    (s.settings.seizeEnable = true → payload = [] → s.arbiter.holder = none → s.claims c.other = false →
      ∃ t : State, exec (.seizeAuthority c) s = .next t ∧ t.arbiter =
          { s.arbiter with holder := some c, silence := .running (s.settings.holdSilence * 1024000) } ∧
        t = { s with arbiter := t.arbiter, ports := t.ports } ∧
        t.repliedWith c.port codeSeizeAuthority payload ⟨.done, []⟩) ∧
    (s.settings.seizeEnable = true → payload = [] → s.arbiter.holder = some c →
      exec (.seizeAuthority c) s = .next (s.answered c.port codeSeizeAuthority payload ⟨.done, []⟩)) ∧
    (s.settings.seizeEnable = true → payload = [] → s.arbiter.holder = some c.other →
      ∃ t : State, exec (.seizeAuthority c) s = .next t ∧
        t.arbiter = ⟨some c, none, .stopped, .running (s.settings.holdSilence * 1024000)⟩ ∧
        (t.staging c.other).row = (s.staging c.other).row ∧ (t.staging c.other).column = (s.staging c.other).column ∧
        (∀ k : Fin 16, (t.staging c.other).cells[k] = 0x20 ∧ (t.staging c.other).loaded[k] = false) ∧
        t.staging c = s.staging c ∧ t.repliedWith c.port codeSeizeAuthority payload ⟨.done, []⟩ ∧
        ((s.port c.other.port).enables.getLsbD 1 = true →
          Event.authorityLost c ∈ (t.port c.other.port).events) ∧
        t = { s with arbiter := t.arbiter, ports := t.ports, store := { s.store with
          staging0 := t.store.staging0, staging1 := t.store.staging1 } })) ∧
  (∀ (c : Ctrl) (s : State), s.commanded c.port codeReleaseAuthority [] →
    (s.arbiter.holder = some c →
      ∃ t : State, exec (.releaseAuthority c) s = .next t ∧
        (t.staging c).row = (s.staging c).row ∧ (t.staging c).column = (s.staging c).column ∧
        (∀ k : Fin 16, (t.staging c).cells[k] = 0x20 ∧ (t.staging c).loaded[k] = false) ∧
        t.repliedWith c.port codeReleaseAuthority [] ⟨.done, []⟩ ∧
        (s.arbiter.waiting = none → t.arbiter = { s.arbiter with holder := none, silence := .stopped }) ∧
        (∀ w, s.arbiter.waiting = some w →
          t.arbiter = ⟨some w, none, .stopped, .running (s.settings.holdSilence * 1024000)⟩ ∧
          ((s.port w.port).enables.getLsbD 3 = true → Event.authorityGranted ∈ (t.port w.port).events)) ∧
        t.staging c.other = s.staging c.other ∧ t = { s with arbiter := t.arbiter, ports := t.ports, store := { s.store with
          staging0 := t.store.staging0, staging1 := t.store.staging1 } }) ∧
    (s.arbiter.holder ≠ some c → s.arbiter.waiting = some c →
      exec (.releaseAuthority c) s = .next (({ s with arbiter := { s.arbiter with
        waiting := none, yield := .stopped } } : State).answered c.port codeReleaseAuthority [] ⟨.done, []⟩)) ∧
    (s.arbiter.holder ≠ some c → s.arbiter.waiting ≠ some c →
      exec (.releaseAuthority c) s = .next (s.answered c.port codeReleaseAuthority [] ⟨.done, []⟩)))

/-- The yield timer's expiry removes the waiting port with REQUEST_LAPSED and leaves the holder and its silence timer
(R76); the holder silence timer's expiry takes authority from the holder, with AUTHORITY_EXPIRED, whose buffer is
emptied and keeps its row and column, and grants the waiting port, with AUTHORITY_GRANTED, or leaves the state FREE
(R77, R78). -/
def Obligations.AuthorityTimersExpire : Prop :=
  (∀ (w : Ctrl) (s : State), s.operating → s.arbiter.yield = .running 0 → s.arbiter.waiting = some w →
    exec .yieldTimerExpiry s = .next (({ s with arbiter := { s.arbiter with
      waiting := none, yield := .stopped } } : State).raise w.port .requestLapsed)) ∧
  (∀ (h : Ctrl) (s : State), s.operating → s.arbiter.silence = .running 0 → s.arbiter.holder = some h →
    ∃ t : State, exec .holderSilenceExpiry s = .next t ∧
      (t.staging h).row = (s.staging h).row ∧ (t.staging h).column = (s.staging h).column ∧
      (∀ k : Fin 16, (t.staging h).cells[k] = 0x20 ∧ (t.staging h).loaded[k] = false) ∧
      t.staging h.other = s.staging h.other ∧
      ((s.port h.port).enables.getLsbD 2 = true → Event.authorityExpired ∈ (t.port h.port).events) ∧
      (s.arbiter.waiting = none → t.arbiter = { s.arbiter with holder := none, silence := .stopped }) ∧
      (∀ w, s.arbiter.waiting = some w →
        t.arbiter = ⟨some w, none, .stopped, .running (s.settings.holdSilence * 1024000)⟩ ∧
        ((s.port w.port).enables.getLsbD 3 = true → Event.authorityGranted ∈ (t.port w.port).events)) ∧
      t = { s with arbiter := t.arbiter, ports := t.ports, store := { s.store with
        staging0 := t.store.staging0, staging1 := t.store.staging1 } })

/-! ### The text store (chapter 5) -/

/-- DISCARD STAGING empties the sender's buffer as R87 defines emptying, whether or not any cell was loaded, keeps its
target row and column, does not touch the commit engine, and replies DONE (R90). -/
def Obligations.DiscardEmptiesTheBufferAlone : Prop :=
  ∀ (c : Ctrl) (s : State), s.commanded c.port codeDiscardStaging [] → s.arbiter.holder = some c →
    ∃ b, exec (.discardStaging c) s =
        .next ((s.setStaging c b).answered c.port codeDiscardStaging [] ⟨.done, []⟩) ∧
      b.row = (s.staging c).row ∧ b.column = (s.staging c).column ∧
      (∀ k : Fin 16, b.cells[k] = 0x20 ∧ b.loaded[k] = false) ∧
      (s.setStaging c b).store.engine = s.store.engine

/-- SET TEXT ADDRESS and LOAD TEXT (R88, R89): the address is set with the loaded cells kept; codes are loaded one
after another at the column, which is marked loaded and moves on, to END after cell 15; at END the column wraps to 0,
and the target row advances, from 511 to 0, where the option says so. -/
def Obligations.LoadTextFillsTheBuffer : Prop :=
  (∀ (c : Ctrl) (payload : List Byte) (row : Fin 512) (col : Fin 16) (s : State),
    s.commanded c.port codeSetTextAddress payload → s.arbiter.holder = some c →
    parseAddress payload = some (row, col) →
    exec (.setTextAddress c) s = .next ((s.setStaging c { s.staging c with row := row, column := .cell col }).answered
      c.port codeSetTextAddress payload ⟨.done, []⟩)) ∧
  (∀ (c : Ctrl) (payload : List Byte) (advance : Bool) (codes : List Byte) (s : State),
    s.commanded c.port codeLoadText payload → s.arbiter.holder = some c → parseLoad payload = some (advance, codes) →
    ∃ b, b = codes.foldl (Staging.load advance) (s.staging c) ∧
      exec (.loadText c) s = .next ((s.setStaging c b).answered c.port codeLoadText payload
        ⟨.done, [byte (b.row.val / 256), byte b.row.val, match b.column with | .cell k => byte k.val | .atEnd => 16]⟩)) ∧
  (∀ (advance : Bool) (b : Staging) (x : Byte) (k : Fin 16),
    (b.column = .cell k ∨ (b.column = .atEnd ∧ k = 0)) →
    ∃ b', b' = b.load advance x ∧ b'.cells[k] = x ∧ b'.loaded[k] = true ∧
      (∀ j : Fin 16, j ≠ k → b'.cells[j] = b.cells[j] ∧ b'.loaded[j] = b.loaded[j]) ∧
      (∀ h : k.val + 1 < 16, b'.column = .cell ⟨k.val + 1, h⟩) ∧ (k = 15 → b'.column = .atEnd) ∧
      (b.column = .cell k → b'.row = b.row) ∧
      (b.column = .atEnd → advance = false → b'.row = b.row) ∧
      (b.column = .atEnd → advance = true → b'.row.val = (b.row.val + 1) % 512))

/-- COMMIT ROW (R92, R93): refused BUSY, then PROTECTED, then BAD_ARGUMENT where no cell is loaded; else the engine is
BUSY with the sender's row, each loaded cell giving its staged code and each other cell what the row shows; the buffer
is emptied, with its target row and column kept, nothing else of the store changes, and the reply is ACCEPTED with the
row. -/
def Obligations.CommitRowTakesTheStagedCells : Prop :=
  ∀ (c : Ctrl) (s : State), s.commanded c.port codeCommitRow [] → s.arbiter.holder = some c →
    (s.store.engine ≠ none →
      exec (.commitRow c) s = .next (s.answered c.port codeCommitRow [] ⟨.busy, []⟩)) ∧
    (s.store.engine = none →
      (s.ident.straps.prot = true → (s.staging c).row.val ≤ 63 →
        exec (.commitRow c) s = .next (s.answered c.port codeCommitRow [] ⟨.isProtected, []⟩)) ∧
      (¬ (s.ident.straps.prot = true ∧ (s.staging c).row.val ≤ 63) →
        ((∀ k : Fin 16, (s.staging c).loaded[k] = false) →
          exec (.commitRow c) s = .next (s.answered c.port codeCommitRow [] ⟨.badArgument, []⟩)) ∧
        ((∃ k : Fin 16, (s.staging c).loaded[k] = true) →
          ∃ (t : State) (cells : List Byte), exec (.commitRow c) s = .next (t.answered c.port codeCommitRow []
              ⟨.accepted, [byte ((s.staging c).row.val / 256), byte (s.staging c).row.val]⟩) ∧
            t.store.engine = some ⟨.row (s.staging c).row cells, c⟩ ∧ cells.length = 16 ∧
            (∀ k : Fin 16, cells[k.val]? = some (if (s.staging c).loaded[k] = true then (s.staging c).cells[k]
              else s.store.visible ((s.staging c).row.val * 16 + k.val))) ∧
            (∀ k : Fin 16, (t.staging c).cells[k] = 0x20 ∧ (t.staging c).loaded[k] = false) ∧
            (t.staging c).row = (s.staging c).row ∧ (t.staging c).column = (s.staging c).column ∧
            t.staging c.other = s.staging c.other ∧ t.store.cells = s.store.cells ∧ t.store.failing = s.store.failing ∧
            t = { s with store := t.store })))

/-- A row commit's completion (R91, R93, R94): by success the row holds the new cells and is VALID, every other cell
reads as before, and COMMIT_DONE is raised to the issuing port; a verify failure keeps every cell and standing, and
raises COMMIT_FAILED. Either way the engine is IDLE. -/
def Obligations.RowCommitCompletionWritesTheRow : Prop :=
  ∀ (row : Fin 512) (cells : List Byte) (issuer : Ctrl) (s : State), s.operating →
    s.store.engine = some ⟨.row row cells, issuer⟩ →
    (exec (.rowCommitCompletion false) s = .next (({ s with store := { s.store with engine := none } } : State).raise
      issuer.port (.commitFailed (.row row.val)))) ∧
    (cells.length = 16 → s.textCanonical →
      ∃ t : State, exec (.rowCommitCompletion true) s = .next (t.raise issuer.port (.commitDone (.row row.val))) ∧
        t = { s with store := { s.store with
          cells := t.store.cells, failing := t.store.failing, engine := none } } ∧
        (∀ k, k < 16 → cells[k]? = some (t.store.visible (row.val * 16 + k))) ∧
        (∀ a, a / 16 ≠ row.val → t.store.visible a = s.store.visible a) ∧
        row.val ∉ t.store.failing ∧ (∀ r, r ≠ row.val → (r ∈ t.store.failing ↔ r ∈ s.store.failing)))

/-- READ TEXT ROW on every port: the row, its 16 cells or 16 spaces where it is FAILING, its standing and its flags,
in 20 bytes (R96, R85; 10.8). -/
def Obligations.ReadTextRowReportsTheRow : Prop :=
  ∀ (p : Port) (payload : List Byte) (row : Fin 512) (s : State), s.commanded p codeReadTextRow payload →
    parseRow payload = some row →
    ∃ bs : List Byte, exec (.readTextRow p) s = .next (s.answered p codeReadTextRow payload ⟨.done, bs⟩) ∧ bs.length = 20 ∧
      bs.take 2 = [byte (row.val / 256), byte row.val] ∧
      (row.val ∈ s.store.failing → (bs.drop 2).take 17 = List.replicate 16 0x20 ++ [1]) ∧
      (row.val ∉ s.store.failing → (bs.drop 2).take 17 =
        ((List.range 16).map fun k => readCell s.store.cells (row.val * 16 + k)) ++ [0]) ∧
      ∃ inFlight : Nat, bs.drop 19 =
          [byte (inFlight + if s.ident.straps.prot = true ∧ row.val ≤ 63 then 1 else 0)] ∧
        ((∃ cells c, s.store.engine = some ⟨.row row cells, c⟩) → inFlight = 2) ∧
        ((∀ cells c, s.store.engine ≠ some ⟨.row row cells, c⟩) → inFlight = 0)

/-! ### Minutes at the composer and the scheduler (6.2, 8.2) -/

/-- What the composer and the scheduler make of minute events and of their rebase stages (R101, R137, R138, R4): the
composer sets its minute and removes the notices whose expiry has come, the scheduler sets its minute and nothing
else; at the rebase every minute falls by 1440, held at -1440, and after the scheduler's stage DAY_ROLLOVER is raised
and what waited is delivered in its order: the minute event, then, of a rollover that a forward step began, its
TIME_STEPPED, and the DONE of a SET TIME; a rollover that waited begins (log 13). -/
def Obligations.MinutesOfComposerAndScheduler : Prop :=
  (∀ (n : Nat) (rest : List MinuteItem) (s : State), s.operating → s.composer.inbox = .minute n :: rest →
    ∃ t : State, exec .composerMinuteEvent s = .next t ∧ t.composer.working = n ∧ t.composer.clockSet = true ∧
      t.composer.inbox = rest ∧
      (∀ (p : Fin 8) (e : Notice), s.composer.notices[p] = some e →
        ((∃ m, e.expiry = some m ∧ m ≤ n) → t.composer.notices[p] = none) ∧
        ((∀ m, e.expiry = some m → (n : Int) < m) → t.composer.notices[p] = some e)) ∧
      (∀ p : Fin 8, s.composer.notices[p] = none → t.composer.notices[p] = none) ∧
      t = { s with composer := { s.composer with
        working := n, clockSet := true, notices := t.composer.notices, inbox := rest } }) ∧
  (∀ (rest : List MinuteItem) (s : State), s.operating → s.composer.inbox = .rebase :: rest →
    ∃ t : State, exec .noticeRebase s = .next t ∧ t.composer.working = s.composer.working - 1440 ∧
      (∀ p : Fin 8, t.composer.notices[p] = (s.composer.notices[p]).map fun e =>
        { e with expiry := e.expiry.map fun m => max (m - 1440) (-1440) }) ∧
      t = { s with
        composer := { s.composer with working := t.composer.working, notices := t.composer.notices, inbox := rest }
        time := { s.time with rollover := some .scheduler } }) ∧
  (∀ (n : Nat) (rest : List Nat) (s : State), s.operating → s.cues.minutes = n :: rest →
    exec .cueMinuteEvent s = .next { s with cues := { s.cues with working := n, minutes := rest } }) ∧
  (∀ (n : Nat) (rest : List CueMessage) (after : List Delivery) (s : State), s.operating →
    s.cues.inbox = .rebase :: rest → s.cues.minutes = [] → s.time.rollover = some .scheduler →
    s.time.outbox = .minute n :: after →
    ∃ t : State, exec .cueRebase s = .next t ∧ t.cues.working = s.cues.working - 1440 ∧
      (∀ k : CueClass, t.cues.queue k = (s.cues.queue k).map fun q => { q with
        effective := q.effective.map (fun m => max (m - 1440) (-1440)), issued := max (q.issued - 1440) (-1440) }) ∧
      (s.cues.playing = none → t.cues.playing = none) ∧
      (∀ x, s.cues.playing = some x → t.cues.playing = some { x with
        cue := { x.cue with effective := x.cue.effective.map (fun m => max (m - 1440) (-1440))
                            issued := max (x.cue.issued - 1440) (-1440) } }) ∧
      t.cues = { s.cues with
        safety := t.cues.safety, platform := t.cues.platform, delay := t.cues.delay, routine := t.cues.routine
        playing := t.cues.playing, working := t.cues.working, inbox := rest, minutes := t.cues.minutes } ∧
      t = { s with
        cues := t.cues, ports := t.ports, time := { s.time with rollover := t.time.rollover, outbox := t.time.outbox }
        table := { s.table with inbox := t.table.inbox }, composer := { s.composer with inbox := t.composer.inbox }
        clock := { s.clock with inbox := t.clock.inbox } } ∧
      ((∀ d ∈ after, (∃ e, d = .event e) ∨ ∃ c, d = .reply c) →
        t.time.rollover = none ∧ t.time.outbox = [] ∧ t.table.inbox = s.table.inbox ++ [.minute n] ∧
        t.cues.minutes = [n] ∧ t.composer.inbox = s.composer.inbox ++ [.minute n] ∧
        t.clock.inbox = s.clock.inbox ++ [n]) ∧
      (after = [] → t.ports = (s.raiseRouted .dayRollover).ports) ∧
      (∀ kind m, after = [.event (.timeStepped kind m)] →
        t.ports = ((s.raiseRouted .dayRollover).raiseRouted (.timeStepped kind m)).ports) ∧
      (∀ kind m c payload, after = [.event (.timeStepped kind m), .reply c] →
        (s.port c.port).service = .serving codeSetTime payload .taken →
        t.ports = (((s.raiseRouted .dayRollover).raiseRouted (.timeStepped kind m)).answered c.port codeSetTime payload
          ⟨.done, []⟩).ports) ∧
      (∀ more, after = .rollover :: more → t.time.rollover = some .table ∧ t.time.outbox = more ∧
        t.table.inbox = s.table.inbox ++ [.minute n, .rebase]))

/-! ### The wall (chapter 6) -/

/-- A cycle start of a chain in ENDED with its refresh timer RUN_OUT (R103, R104, R124): the active plan becomes the
cycle plan, the page list is the eligible slots in list order with their codes, paging restarts where the number of
LIST rows, the pinned count, the sector mask or the platform filter has changed, the page index then follows R104's
table, and the link enters LEAD; a plan without a NOTICE row drops the notice cursor; a disabled plan empties the
chain's view. A page timer and a refresh timer that have run out do nothing more than stand RUN_OUT (log 22). -/
def Obligations.CycleStartFixesPlanListAndPage : Prop :=
  (∀ (k : Chain) (plan : ChainPlan) (v : ChainView) (s : State), s.operating → s.links[k].state = .ended →
    s.links[k].refresh = .runOut → plan = s.settings.plans[k] → v = s.composer.views[k] →
    ∃ (t : State) (w : ChainView), exec (.cycleStart k) s = .next t ∧ w = t.composer.views[k] ∧
      t = (s.setView k w).setLink k { s.links[k] with
        state := .lead, rowCount := plan.roles.length, disabled := !plan.enabled, clean := true
        refresh := .running (plan.refreshPeriod * 1024) } ∧
      w.plan = plan ∧ w.running = true ∧ w.nextRow = 1 ∧
      (plan.enabled = false → w.pages = [] ∧ w.page = 0 ∧ w.pageTimer = .stopped ∧ w.partTimer = .stopped ∧
        w.partOwed = false ∧ w.cursor = none) ∧
      (plan.enabled = true →
        w.pages.map Prod.fst = s.table.order.filter (fun i => (s.table.slots[i]).any fun r =>
          plan.sectorMask.getLsbD r.sector.val &&
            (plan.platformFilter == 0 || r.platform == some plan.platformFilter)) ∧
        (∀ e ∈ w.pages, ∃ r, s.table.slots[e.1] = some r ∧ r.code = e.2) ∧
        (∀ u : ChainView, u = { v with plan := plan, running := true, nextRow := 1, pages := w.pages } →
          ((v.plan.roles.count .list ≠ plan.roles.count .list ∨ v.plan.pinned ≠ plan.pinned ∨
              v.plan.sectorMask ≠ plan.sectorMask ∨ v.plan.platformFilter ≠ plan.platformFilter) →
            w.page = ({ u with page := 0, pageTimer := .stopped } : ChainView).updatePage.page ∧
            w.pageTimer = ({ u with page := 0, pageTimer := .stopped } : ChainView).updatePage.pageTimer) ∧
          (v.plan.roles.count .list = plan.roles.count .list → v.plan.pinned = plan.pinned →
            v.plan.sectorMask = plan.sectorMask → v.plan.platformFilter = plan.platformFilter →
            w.page = u.updatePage.page ∧ w.pageTimer = u.updatePage.pageTimer)) ∧
        (.notice ∈ plan.roles → w.cursor = v.cursor ∧ w.partTimer = v.partTimer ∧ w.partOwed = v.partOwed) ∧
        (.notice ∉ plan.roles → w.cursor = none ∧ w.partTimer = .stopped ∧ w.partOwed = false))) ∧
  (∀ (v : ChainView) (n m l : Nat), n = v.plan.roles.count .list → m = n - v.plan.pinned → l = v.pages.length →
    ((m = 0 ∨ l ≤ n) → v.updatePage = { v with page := 0, pageTimer := .stopped }) ∧
    (0 < m → n < l →
      (v.pageTimer = .stopped →
        v.updatePage = { v with page := 0, pageTimer := .running (v.plan.pagePeriod * 1024000) }) ∧
      (v.pageTimer = .runOut → v.plan.pinned + (v.page + 1) * m + 1 ≤ l →
        v.updatePage = { v with page := v.page + 1, pageTimer := .running (v.plan.pagePeriod * 1024000) }) ∧
      (v.pageTimer = .runOut → l < v.plan.pinned + (v.page + 1) * m + 1 →
        v.updatePage = { v with page := 0, pageTimer := .running (v.plan.pagePeriod * 1024000) }) ∧
      (∀ left, v.pageTimer = .running left → l < v.plan.pinned + v.page * m + 1 →
        v.updatePage = { v with page := 0, pageTimer := .running (v.plan.pagePeriod * 1024000) }) ∧
      (∀ left, v.pageTimer = .running left → v.plan.pinned + v.page * m + 1 ≤ l → v.updatePage = v))) ∧
  (∀ (k : Chain) (s : State), s.operating → s.composer.views[k].pageTimer = .running 0 →
    exec (.pageTimerExpiry k) s = .next (s.setView k { s.composer.views[k] with pageTimer := .runOut })) ∧
  (∀ (k : Chain) (s : State), s.operating → s.links[k].refresh = .running 0 →
    exec (.refreshTimerExpiry k) s = .next (s.setLink k { s.links[k] with refresh := .runOut }))

/-- The composition engine (R106, R112): idle, it begins the next row of the first wanting chain after the last one
served, reserving a feed place; at the completion the image goes into its place, or is discarded where the link has
passed the row. A LIST row shows the page-list position of R105. A CLOCK row shows the civil time of the working
minute, centred, or "--:--" while UNSET; a disabled chain's rows and BLANK rows are all spaces, STEADY. A NOTICE row
follows R118: blank over an empty sequence; else the part of the cursor's item, held to its part count, or part 0 of
the sequence's first item, where the cursor then stands with its timer restarted. The sequence is R116's: the
positions by priority and position, then the automatic delay notices in list order; the texts and part counts are
R117's, those of an automatic notice by its whole length of 7 plus the two shown lengths (log 32). -/
def Obligations.CompositionsServeTheWantingChain : Prop :=
  (∀ (d : Fin 4) (k : Chain) (s : State), s.operating → s.composer.engine = none →
    k = s.composer.lastServed + d + 1 → s.wanting k = true →
    (∀ e : Fin 4, e < d → s.wanting (s.composer.lastServed + e + 1) = false) →
    ∃ t image, exec .compositionStart s = .next t ∧
      t.composer.engine = some ⟨k, s.composer.views[k].nextRow, image, false⟩ ∧ t.composer.lastServed = k ∧
      t.composer.views[k].nextRow = s.composer.views[k].nextRow + 1 ∧
      t.composer.views[k] = { (composeRow s s.composer.views[k] s.composer.views[k].nextRow).1 with
        nextRow := s.composer.views[k].nextRow + 1 } ∧
      (∀ j : Chain, j ≠ k → t.composer.views[j] = s.composer.views[j]) ∧
      t.links[k].feed = s.links[k].feed ++ [.reserved s.composer.views[k].nextRow] ∧
      image = (composeRow s s.composer.views[k] s.composer.views[k].nextRow).2 ∧
      t = { s with
        composer := { s.composer with engine := t.composer.engine, lastServed := k, views := t.composer.views }
        links := put s.links k { s.links[k] with feed := t.links[k].feed } }) ∧
  (∀ (s : State) (k : Chain), s.wanting k = true ↔ s.composer.views[k].running = true ∧
    s.composer.views[k].nextRow ≤ s.composer.views[k].plan.roles.length ∧ s.links[k].feed.length < 2) ∧
  (∀ (s : State) (v : ChainView) (row : Nat), v.plan.enabled = true → v.plan.roles.getD (row - 1) .blank = .clock →
    (s.composer.clockSet = true → (composeRow s v row).2.cells =
      padTo v.plan.width (List.replicate ((v.plan.width - 5) / 2) 0x20 ++
        civilText s.settings.dayStart s.composer.working)) ∧
    (s.composer.clockSet = false → (composeRow s v row).2.cells =
      padTo v.plan.width (List.replicate ((v.plan.width - 5) / 2) 0x20 ++ [0x2D, 0x2D, 0x3A, 0x2D, 0x2D])) ∧
    (composeRow s v row).2.flash = List.replicate v.plan.width false ∧ (composeRow s v row).1 = v) ∧
  (∀ (s : State) (v : ChainView) (row : Nat),
    (v.plan.enabled = false ∨ v.plan.roles.getD (row - 1) .blank = .blank) →
    composeRow s v row = (v, ⟨List.replicate v.plan.width 0x20, List.replicate v.plan.width false⟩)) ∧
  (∀ (s : State) (v : ChainView) (row i : Nat), v.plan.enabled = true → v.plan.roles.getD (row - 1) .blank = .list →
    i = (v.plan.roles.take row).count .list →
    composeRow s v row = (v, listRow s v i) ∧
    (i ≤ v.plan.pinned → v.listPosition i = i) ∧
    (v.plan.pinned < i → v.listPosition i =
      v.plan.pinned + v.page * (v.plan.roles.count .list - v.plan.pinned) + (i - v.plan.pinned))) ∧
  (∀ (s : State) (v : ChainView) (row : Nat), v.plan.enabled = true → v.plan.roles.getD (row - 1) .blank = .notice →
    (composeRow s v row).2.flash = List.replicate v.plan.width false ∧
    (noticeSequence s v.plan = [] →
      (composeRow s v row).1 = { v with cursor := none, partTimer := .stopped, partOwed := false } ∧
      (composeRow s v row).2.cells = List.replicate v.plan.width 0x20) ∧
    (∀ first rest, noticeSequence s v.plan = first :: rest →
      ((v.cursor = none ∨ ∃ cur, v.cursor = some cur ∧ cur.item ∉ first :: rest) →
        (composeRow s v row).1 = { v with
          cursor := some ⟨first, 0⟩, partTimer := .running (s.settings.noticePeriod * 1024000), partOwed := false } ∧
        (composeRow s v row).2.cells = padTo v.plan.width (noticeText s first)) ∧
      (∀ cur, v.cursor = some cur → cur.item ∈ first :: rest →
        (composeRow s v row).1 = v ∧
        (composeRow s v row).2.cells = padTo v.plan.width ((noticeText s cur.item).drop
          (min cur.part (partCount v.plan.width (noticeText s cur.item) - 1) * v.plan.width))))) ∧
  (∀ (s : State) (plan : ChainPlan), ∃ (front : List (Fin 8)) (autos : List NoticeItem),
    noticeSequence s plan = front.map NoticeItem.position ++ autos ∧
    (∀ p : Fin 8, p ∈ front ↔ ∃ n, s.composer.notices[p] = some n ∧ n.priority ≤ 3) ∧
    front.Pairwise (fun p q => ∀ a b, s.composer.notices[p] = some a → s.composer.notices[q] = some b →
      a.priority < b.priority ∨ a.priority = b.priority ∧ p < q) ∧
    (s.settings.autoDelayNotices = false → autos = []) ∧
    (s.settings.autoDelayNotices = true → autos = s.table.order.filterMap fun i => match s.table.slots[i] with
      | none => none
      | some r =>
        if plan.sectorMask.getLsbD r.sector.val = true ∧
            (plan.platformFilter = 0 ∨ r.platform = some plan.platformFilter) ∧
            (r.state = .waiting ∨ r.state = .called) ∧ s.settings.delayCueThreshold ≤ r.delay ∧ r.remark ≠ none then
          some (.automatic i r.code)
        else none)) ∧
  (∀ s : State,
    (∀ (p : Fin 8) (n : Notice), s.composer.notices[p] = some n → noticeText s (.position p) = s.store.shown n.ref) ∧
    (∀ (i : Slot) (r : Record) (code : List Byte) (x : TextRef), s.table.slots[i] = some r → r.remark = some x →
      noticeText s (.automatic i code) = civilText s.settings.dayStart r.sched ++ [0x20] ++
        s.store.shown r.destination ++ [0x20] ++ s.store.shown x ∧
      (noticeText s (.automatic i code)).length =
        7 + (s.store.shown r.destination).length + (s.store.shown x).length) ∧
    (∀ (w : Nat) (text : List Byte), 0 < w →
      (text = [] → partCount w text = 1) ∧
      (text ≠ [] → (partCount w text - 1) * w < text.length ∧ text.length ≤ partCount w text * w))) ∧
  (∀ (e : Composition) (s : State), s.operating → s.composer.engine = some e →
    (e.passed = false → exec .compositionCompletion s = .next { s with
      composer := { s.composer with engine := none }
      links := put s.links e.chain { s.links[e.chain] with
        feed := s.links[e.chain].feed.map fun p => if p = .reserved e.row then .image e.row e.image else p } }) ∧
    (e.passed = true → exec .compositionCompletion s = .next { s with
      composer := { s.composer with engine := none }
      links := put s.links e.chain { s.links[e.chain] with
        feed := s.links[e.chain].feed.filter fun p => match p with
          | .reserved _ => false
          | .image _ _ => true } }))

/-- The texts of a LIST row: what is shown of a reference is its cells as every reader sees them, display-mapped, less
the spaces at their end (R107); a civil time is HH:MM. A LIST row showing a record on a chain of width w, 24 to 64
(R109, R110, R111): its fields fill the row exactly, with spaces at cells 5, w - 14 and w - 11. The time field has the
time text, or in COUNTDOWN, while TIMED, of a live record the countdown, right-aligned: "Due", the minutes to E, or
its civil time above 99. The destination field has the destination, and the via beside it where both fit whole. The
platform stands right-aligned at cells w - 13 and w - 12, or "--". The remark field has the words of the first remark
that applies, and EXPECTED the civil time of E in its last five cells. Every cell flashes while CLOSING, else the
platform cells alone while a previous platform is present. A row whose entry's slot is free or holds another code is
blank (R108). -/
def Obligations.ListRowsFillTheirFields : Prop :=
  (∀ bs : List Byte, ∃ n, bs = trimmed bs ++ List.replicate n 0x20 ∧ (trimmed bs).getLast? ≠ some 0x20) ∧
  (∀ (store : TextStore) (x : TextRef), ∃ text : List Byte, store.shown x = trimmed text ∧ text.length = x.len ∧
    ∀ k b, k < x.len → b = store.visible (x.row * 16 + k) →
      text[k]? = some (if 0x20 ≤ b.toNat ∧ b.toNat ≤ 0x7E ∨ 0xA0 ≤ b.toNat ∧ b.toNat ≤ 0xFE then b else 0x20)) ∧
  (∀ (dayStart : Nat) (m : Int) (h : Nat), (h : Int) = ((dayStart : Int) + m) % 1440 → civilText dayStart m =
    [byte (0x30 + h / 600), byte (0x30 + h / 60 % 10), 0x3A, byte (0x30 + h % 60 / 10), byte (0x30 + h % 60 % 10)]) ∧
  (∀ (s : State) (plan : ChainPlan) (r : Record) (w : Nat), plan.width = w → 24 ≤ w → w ≤ 64 →
    (∀ p, r.platform = some p → 1 ≤ p ∧ p ≤ 32) →
    ∃ cells flash, listImage s plan r = ⟨cells, flash⟩ ∧ cells.length = w ∧ flash.length = w ∧
      cells[5]? = some 0x20 ∧ cells[w - 14]? = some 0x20 ∧ cells[w - 11]? = some 0x20 ∧
      ((plan.timeMode = .clocktime ∨ s.table.timed = false ∨ (∃ m, r.state = .gone m) ∨ ∃ m, r.state = .cancelled m) →
        cells.take 5 = civilText s.settings.dayStart r.sched) ∧
      (∀ left, plan.timeMode = .countdown → s.table.timed = true →
        (r.state = .waiting ∨ r.state = .called ∨ r.state = .closing) → left = r.effective - s.table.working →
        (left ≤ 0 → cells.take 5 = [0x20, 0x20, 0x44, 0x75, 0x65]) ∧
        (0 < left → left < 10 → cells.take 5 = [0x20, 0x20, byte (0x30 + left.toNat), 0x20, 0x6D]) ∧
        (10 ≤ left → left ≤ 99 →
          cells.take 5 = [0x20, byte (0x30 + left.toNat / 10), byte (0x30 + left.toNat % 10), 0x20, 0x6D]) ∧
        (99 < left → cells.take 5 = civilText s.settings.dayStart r.effective)) ∧
      (∀ dest via, dest = s.store.shown r.destination → via = (r.via.map s.store.shown).getD [] →
        (via ≠ [] → dest.length + 1 + via.length ≤ w - 20 → (cells.drop 6).take (w - 20) =
          dest ++ [0x20] ++ via ++ List.replicate (w - 20 - (dest.length + 1 + via.length)) 0x20) ∧
        ((via = [] ∨ w - 20 < dest.length + 1 + via.length) → (cells.drop 6).take (w - 20) =
          dest.take (w - 20) ++ List.replicate (w - 20 - dest.length) 0x20)) ∧
      (∀ remark : TextRef,
        (((∃ m, r.state = .cancelled m) ∧ remark = s.settings.remarks.cancelled) ∨
          ((∃ m, r.state = .gone m) ∧ remark = s.settings.remarks.departed) ∨
          (r.state = .closing ∧ remark = s.settings.remarks.closing) ∨
          ((r.state = .waiting ∨ r.state = .called) ∧ r.previous ≠ none ∧
            remark = s.settings.remarks.platformChanged) ∨
          (r.state = .called ∧ r.previous = none ∧ r.delay < s.settings.onTimeTolerance ∧
            remark = s.settings.remarks.boarding) ∨
          (r.state = .waiting ∧ r.previous = none ∧ r.delay < s.settings.onTimeTolerance ∧
            remark = s.settings.remarks.onTime)) →
        cells.drop (w - 10) =
          (s.store.shown remark).take 10 ++ List.replicate (10 - (s.store.shown remark).length) 0x20) ∧
      (r.platform = none → (cells.drop (w - 13)).take 2 = [0x2D, 0x2D]) ∧
      (∀ p, r.platform = some p → p < 10 → (cells.drop (w - 13)).take 2 = [0x20, byte (0x30 + p)]) ∧
      (∀ p, r.platform = some p → 10 ≤ p →
        (cells.drop (w - 13)).take 2 = [byte (0x30 + p / 10), byte (0x30 + p % 10)]) ∧
      ((r.state = .waiting ∨ r.state = .called) → r.previous = none → s.settings.onTimeTolerance ≤ r.delay →
        cells.drop (w - 10) = (s.store.shown s.settings.remarks.expected).take 5 ++
          List.replicate (5 - (s.store.shown s.settings.remarks.expected).length) 0x20 ++
          civilText s.settings.dayStart r.effective) ∧
      (∀ x, x < w → flash[x]? = some (decide (r.state = .closing ∨
        (r.previous.isSome = true ∧ (x = w - 13 ∨ x = w - 12)))))) ∧
  (∀ (s : State) (v : ChainView) (i : Nat),
    ((∀ e, v.pages[v.listPosition i - 1]? = some e → ∀ r, s.table.slots[e.1] = some r → r.code ≠ e.2) →
      listRow s v i = ⟨List.replicate v.plan.width 0x20, List.replicate v.plan.width false⟩) ∧
    (∀ e r, v.pages[v.listPosition i - 1]? = some e → s.table.slots[e.1] = some r → r.code = e.2 →
      listRow s v i = listImage s v.plan r))

/-- The notices (R113, R114, R119): SET NOTICE places the entry, and a cursor on its position goes back to part 0 with
its timer restarted; CLEAR NOTICE empties the position and leaves the cursors; a part timer's expiry moves the cursor
to the next part, the next item or the first item of the sequence, or makes it absent where the sequence is empty. An
expiry that was due when a SET NOTICE restarted the timer is still taken, and moves on from part 0 (R121; log 40). A
cursor on an emptied position is set back like any other (the model's choice, log 35), and an automatic notice's parts
are counted by its whole length (log 32). -/
def Obligations.NoticesAreSetClearedAndRotated : Prop :=
  (∀ (c : Ctrl) (payload : List Byte) (p : Fin 8) (n : Notice) (s : State), s.commanded c.port codeSetNotice payload →
    s.arbiter.holder = some c → parseNotice payload = some (p, n) →
    ∃ t : State, exec (.setNotice c) s = .next (t.answered c.port codeSetNotice payload ⟨.done, []⟩) ∧
      t = { s with composer := { s.composer with notices := put s.composer.notices p (some n)
                                                 views := t.composer.views } } ∧
      ∀ k : Chain, ((∀ part, s.composer.views[k].cursor ≠ some ⟨.position p, part⟩) →
          t.composer.views[k] = s.composer.views[k]) ∧
        (∀ part, s.composer.views[k].cursor = some ⟨.position p, part⟩ →
          t.composer.views[k] = { s.composer.views[k] with
            cursor := some ⟨.position p, 0⟩, partTimer := .running (s.settings.noticePeriod * 1024000)
            partOwed := s.composer.views[k].partOwed || decide (s.composer.views[k].partTimer = .running 0) })) ∧
  (∀ (c : Ctrl) (payload : List Byte) (p : Fin 8) (s : State), s.commanded c.port codeClearNotice payload →
    s.arbiter.holder = some c → parsePosition payload = some p →
    exec (.clearNotice c) s = .next (({ s with composer := { s.composer with
      notices := put s.composer.notices p none } } : State).answered c.port codeClearNotice payload ⟨.done, []⟩)) ∧
  (∀ (k : Chain) (s : State), s.operating →
    (s.composer.views[k].partTimer = .running 0 ∨ s.composer.views[k].partOwed = true) →
    ∃ v, exec (.partTimerExpiry k) s = .next (s.setView k v) ∧
      (noticeSequence s s.composer.views[k].plan = [] →
        v = { s.composer.views[k] with cursor := none, partTimer := .stopped, partOwed := false }) ∧
      (∀ first rest, noticeSequence s s.composer.views[k].plan = first :: rest →
        (∃ cur, v = { s.composer.views[k] with
          cursor := some cur, partTimer := .running (s.settings.noticePeriod * 1024000), partOwed := false }) ∧
        (s.composer.views[k].cursor = none → v.cursor = some ⟨first, 0⟩) ∧
        (∀ cur, s.composer.views[k].cursor = some cur →
          (cur.item ∉ first :: rest → v.cursor = some ⟨first, 0⟩) ∧
          (cur.item ∈ first :: rest →
            (cur.part + 1 < partCount s.composer.views[k].plan.width (noticeText s cur.item) →
              v.cursor = some ⟨cur.item, cur.part + 1⟩) ∧
            (partCount s.composer.views[k].plan.width (noticeText s cur.item) ≤ cur.part + 1 →
              ∃ next, v.cursor = some ⟨next, 0⟩ ∧ next ∈ first :: rest ∧
                ∀ before after, first :: rest = before ++ cur.item :: after → cur.item ∉ before →
                  next = after.headD first)))))

/-! ### The chain links (chapter 7) -/

/-- At the end of LEAD the link sends, for row 1, the image at the head of its feed; or a REPEAT frame, counted as
stale; or, in a disabled cycle, a blank frame, not counted; a row sent without its image is passed at the composer
(R125, R106). Each frame carries its check value, which is free (R123, log 8). When the frame has been sent the answer
window opens (R126). -/
def Obligations.LinksChooseTheirFrames : Prop :=
  (∀ (c : Chain) (w : Nat) (s : State), s.operating → s.links[c].state = .lead → w = s.composer.views[c].plan.width →
    (∀ image rest, s.links[c].feed = .image 1 image :: rest →
      exec (.leadEnd c) s = .next (s.setLink c { s.links[c] with
        state := .rowOut 1 (.forRow 1 (.row w image)), feed := rest })) ∧
    ((s.links[c].feed = [] ∨ ∃ rest, s.links[c].feed = .reserved 1 :: rest) →
      ∃ t : State, exec (.leadEnd c) s = .next t ∧
        (s.links[c].disabled = false → t.links[c] = { s.links[c] with
          state := .rowOut 1 (.forRow 1 .repeated)
          stale := if s.links[c].stale = 0xFFFF then 0xFFFF else s.links[c].stale + 1 }) ∧
        (s.links[c].disabled = true → t.links[c] = { s.links[c] with state := .rowOut 1 (.forRow 1 (.blank w)) }) ∧
        t.composer.views[c] = { s.composer.views[c] with
          nextRow := if s.composer.views[c].nextRow ≤ 1 then 2 else s.composer.views[c].nextRow } ∧
        (∀ e, s.composer.engine = some e →
          t.composer.engine = some { e with passed := e.passed || decide (e.chain = c ∧ e.row = 1) }) ∧
        (s.composer.engine = none → t.composer.engine = none) ∧
        (∀ k : Chain, k ≠ c → t.links[k] = s.links[k] ∧ t.composer.views[k] = s.composer.views[k]) ∧
        t = { s with links := t.links, composer := { s.composer with
          engine := t.composer.engine, views := t.composer.views } })) ∧
  (∀ (k : Nat) (x : FrameContent), ∃ check, ChainFrame.forRow k x = ⟨x, check⟩) ∧
  (∀ (c : Chain) (k : Nat) (f : ChainFrame) (s : State), s.operating → s.links[c].state = .rowOut k f →
    exec (.chainFrameSent c) s = .next (s.setLink c { s.links[c] with state := .answerWait k f }))

/-- The close of an answer window (R123, R126, R127, R128): any but a valid answer is discarded; a valid answer gives
the row's entry its status and run 0; an expiry makes the row ABSENT, and its third in a row sets the fault flag,
counts, and raises CHAIN_FAULT; below the last row the link becomes ready for the next row and chooses its frame by
R125; at the last row the cycle ends, with the fault flag cleared where every row answered, and the composer told
(R106). -/
def Obligations.WindowsCloseWithAnAnswerOrAbsent : Prop :=
  ∀ (c : Chain) (k : Nat) (i : Fin 12) (f : ChainFrame) (s : State), s.operating →
    s.links[c].state = .answerWait k f → k = i.val + 1 →
    (∀ (row : Nat) (st : AnswerStatus) (good : Bool), (good = false ∨ row ≠ k) →
      exec (.moduleAnswer c row st good) s = .next s) ∧
    (∀ st : AnswerStatus, ∃ t : State, exec (.moduleAnswer c k st true) s = .next t ∧
      t.links[c].modules[i] = ⟨(match st with | .ok => .ok | .cellsDegraded => .cellsDegraded), 0⟩ ∧
      (∀ j : Fin 12, j ≠ i → t.links[c].modules[j] = s.links[c].modules[j]) ∧
      t.links[c].absent = s.links[c].absent ∧ t.links[c].clean = s.links[c].clean ∧
      t.links[c].rowCount = s.links[c].rowCount ∧ t.links[c].disabled = s.links[c].disabled ∧
      (∀ j : Chain, j ≠ c → t.links[j] = s.links[j]) ∧
      t = { s with links := t.links, composer := t.composer, ports := t.ports } ∧
      (k < s.links[c].rowCount → t.ports = s.ports ∧ t.links[c].fault = s.links[c].fault ∧
        t.links[c].refresh = s.links[c].refresh ∧ s.readies t c (k + 1) ∧
        ∃ g, t.links[c].state = .rowOut (k + 1) g) ∧
      (s.links[c].rowCount ≤ k →
        t.composer.views[c] = { s.composer.views[c] with running := false } ∧
        (∀ j : Chain, j ≠ c → t.composer.views[j] = s.composer.views[j]) ∧
        (∀ e, s.composer.engine = some e →
          t.composer.engine = some { e with passed := e.passed || decide (e.chain = c) }) ∧
        (s.composer.engine = none → t.composer.engine = none) ∧
        t.composer = { s.composer with engine := t.composer.engine, views := t.composer.views } ∧
        t.links[c].fault = (s.links[c].fault && !s.links[c].clean) ∧
        t.links[c].feed = s.links[c].feed ∧ t.links[c].stale = s.links[c].stale ∧
        t.links[c].state = (if s.links[c].disabled then .halted else .ended) ∧
        t.links[c].refresh = (if s.links[c].disabled then .stopped else s.links[c].refresh))) ∧
    (∃ t : State, exec (.answerWindowExpiry c) s = .next t ∧
      t.links[c].modules[i] = ⟨.absent, min 3 (s.links[c].modules[i].absentRun + 1)⟩ ∧
      (∀ j : Fin 12, j ≠ i → t.links[c].modules[j] = s.links[c].modules[j]) ∧ t.links[c].clean = false ∧
      t.links[c].rowCount = s.links[c].rowCount ∧ t.links[c].disabled = s.links[c].disabled ∧
      (s.links[c].modules[i].absentRun = 2 → t.links[c].fault = true ∧
        t.links[c].absent = (if s.links[c].absent = 0xFFFF then 0xFFFF else s.links[c].absent + 1) ∧
        (∀ q : Ctrl, s.routes s.settings.routing.chainFault q → (s.port q.port).enables.getLsbD 11 = true →
          Event.chainFault c k ∈ (t.port q.port).events) ∧
        (s.ports.p0.watch = none → s.ports.p1.watch = none → t.ports = (s.raiseRouted (.chainFault c k)).ports)) ∧
      (s.links[c].modules[i].absentRun ≠ 2 → t.links[c].fault = s.links[c].fault ∧
        t.links[c].absent = s.links[c].absent ∧ t.ports = s.ports) ∧
      (k < s.links[c].rowCount → t.links[c].refresh = s.links[c].refresh ∧ s.readies t c (k + 1) ∧
        ∃ g, t.links[c].state = .rowOut (k + 1) g) ∧
      (s.links[c].rowCount ≤ k →
        t.composer.views[c] = { s.composer.views[c] with running := false } ∧
        (∀ j : Chain, j ≠ c → t.composer.views[j] = s.composer.views[j]) ∧
        (∀ e, s.composer.engine = some e →
          t.composer.engine = some { e with passed := e.passed || decide (e.chain = c) }) ∧
        (s.composer.engine = none → t.composer.engine = none) ∧
        t.composer = { s.composer with engine := t.composer.engine, views := t.composer.views } ∧
        t.links[c].feed = s.links[c].feed ∧ t.links[c].stale = s.links[c].stale ∧
        t.links[c].state = (if s.links[c].disabled then .halted else .ended) ∧
        t.links[c].refresh = (if s.links[c].disabled then .stopped else s.links[c].refresh)) ∧
      (∀ j : Chain, j ≠ c → t.links[j] = s.links[j]) ∧
      t = { s with links := t.links, composer := t.composer, ports := t.ports })

/-! ### Announcement cues (chapter 8) -/

/-- An issue (R134, R135, R139, R140): a pending cue of the kind and slot is replaced in place by the issue's content,
keeping handle and position, and nothing is raised; else below 16 cues a new cue of that content is appended and
CUE_READY raised where nothing plays; else it is dropped, counted in its class, and CUE_DROPPED raised. The new cue's
handle is 1 to 255, held by no pending cue and no playing cue, and the first such from the handle counter on, which
moves past it (R135, with the queues within R136's bound). -/
def Obligations.IssuesReplaceAppendOrDrop : Prop :=
  ∀ (i : Issue) (o : Option Ctrl) (rest : List CueMessage) (k : CueClass) (s : State), s.operating →
    s.cues.inbox = .notice (.issue i) o :: rest → k = i.kind.cls → i.kind ≠ .notice →
    ((∃ q ∈ s.cues.queue k, q.kind = i.kind ∧ q.slot = some i.slot) →
      ∃ t : State, exec .cueIssue s = .next t ∧ (t.cues.queue k).map Cue.handle = (s.cues.queue k).map Cue.handle ∧
        (∀ (n : Nat) (q : Cue), (s.cues.queue k)[n]? = some q →
          ((q.kind ≠ i.kind ∨ q.slot ≠ some i.slot) → (t.cues.queue k)[n]? = some q) ∧
          (q.kind = i.kind → q.slot = some i.slot → (t.cues.queue k)[n]? = some {
            handle := q.handle, kind := i.kind, slot := some i.slot, code := q.code, platform := i.platform
            previous := if i.kind = .platformChange then i.previous else none
            effective := some i.effective, delay := if i.kind = .delay then some i.delay else none
            destination := some i.destination
            remark := if i.kind = .delay ∨ i.kind = .cancel then i.remark else none
            text := none, repeats := 0, issued := i.issued })) ∧
        t = { s with cues := { (s.cues.setQueue k (t.cues.queue k)) with inbox := rest } }) ∧
    ((∀ q ∈ s.cues.queue k, q.kind ≠ i.kind ∨ q.slot ≠ some i.slot) →
      ((s.cues.queue k).length < 16 →
        ∃ (t : State) (q : Cue), exec .cueIssue s = .next t ∧ t.cues.queue k = s.cues.queue k ++ [q] ∧
          q.handle = s.cues.freeHandle ∧ t.cues.nextHandle = q.handle % 255 + 1 ∧
          q = {
            handle := q.handle, kind := i.kind, slot := some i.slot, code := i.code, platform := i.platform
            previous := if i.kind = .platformChange then i.previous else none
            effective := some i.effective, delay := if i.kind = .delay then some i.delay else none
            destination := some i.destination
            remark := if i.kind = .delay ∨ i.kind = .cancel then i.remark else none
            text := none, repeats := 0, issued := i.issued } ∧
          (s.queuesBounded → 1 ≤ q.handle ∧ q.handle ≤ 255 ∧
            (∀ (j : CueClass) (x : Cue), x ∈ s.cues.queue j → x.handle ≠ q.handle) ∧
            (∀ x, s.cues.playing = some x → x.cue.handle ≠ q.handle) ∧
            ∃ d, q.handle = (s.cues.nextHandle - 1 + d) % 255 + 1 ∧ ∀ e, e < d →
              ((∃ (j : CueClass) (x : Cue), x ∈ s.cues.queue j ∧ x.handle = (s.cues.nextHandle - 1 + e) % 255 + 1) ∨
                ∃ x, s.cues.playing = some x ∧ x.cue.handle = (s.cues.nextHandle - 1 + e) % 255 + 1)) ∧
          t = { s with ports := t.ports, cues := { (s.cues.setQueue k (t.cues.queue k)) with
            inbox := rest, nextHandle := t.cues.nextHandle } } ∧
          (s.cues.playing = none → t.ports = (s.raise .cp .cueReady).ports) ∧
          (s.cues.playing ≠ none → t.ports = s.ports)) ∧
      ((s.cues.queue k).length = 16 →
        ∃ t : State, exec .cueIssue s = .next t ∧ (∀ k', t.cues.queue k' = s.cues.queue k') ∧
          t.ports = (s.raiseRouted (.cueDropped k)).ports ∧
          t.cues.dropPlatform = (if k = .platform ∧ s.cues.dropPlatform ≠ 0xFFFF then s.cues.dropPlatform + 1
            else s.cues.dropPlatform) ∧
          t.cues.dropDelay = (if k = .delay ∧ s.cues.dropDelay ≠ 0xFFFF then s.cues.dropDelay + 1
            else s.cues.dropDelay) ∧
          t.cues.dropRoutine = (if k = .routine ∧ s.cues.dropRoutine ≠ 0xFFFF then s.cues.dropRoutine + 1
            else s.cues.dropRoutine) ∧
          t = { s with ports := t.ports, cues := { s.cues with
            inbox := rest, dropPlatform := t.cues.dropPlatform, dropDelay := t.cues.dropDelay
            dropRoutine := t.cues.dropRoutine } }))

/-- The other notifications (R141 to R145): a refresh rewrites the carried fields of the slot's pending cues, and
supersedes a playing cue of the slot any of whose carried fields differs, while an equal one stands; a withdrawal,
"slot freed" and "board cleared" remove the pending cues they name, counting each in its class up to 65535, and
supersede a playing cue they name; "record ended" removes none and supersedes the playing cue of the slot; superseding
sets the flag once, raises CUE_SUPERSEDED with the handle, and leaves the cue playing; nothing else is raised. -/
def Obligations.NotificationsRefreshWithdrawAndSupersede : Prop :=
  (∀ (r : Refresh) (o : Option Ctrl) (rest : List CueMessage) (s : State), s.operating →
    s.cues.inbox = .notice (.refresh r) o :: rest →
    ∃ t : State, exec .cueRefresh s = .next t ∧
      (∀ (k : CueClass) (n : Nat) (q : Cue), (s.cues.queue k)[n]? = some q →
        (q.slot ≠ some r.slot → (t.cues.queue k)[n]? = some q) ∧
        (q.slot = some r.slot → (t.cues.queue k)[n]? = some { q with
          platform := r.platform, effective := some r.effective
          delay := if q.kind = .delay then some r.delay else q.delay
          remark := if q.kind = .delay ∨ q.kind = .cancel then r.remark else q.remark })) ∧
      (∀ k, (t.cues.queue k).length = (s.cues.queue k).length) ∧
      (s.cues.playing = none → t.cues.playing = none ∧ t.ports = s.ports) ∧
      (∀ x, s.cues.playing = some x →
        ((x.superseded = false ∧ x.cue.slot = some r.slot ∧
            (x.cue.platform ≠ r.platform ∨ x.cue.effective ≠ some r.effective ∨
              (x.cue.kind = .delay ∧ x.cue.delay ≠ some r.delay) ∨
              ((x.cue.kind = .delay ∨ x.cue.kind = .cancel) ∧ x.cue.remark ≠ r.remark))) →
          t.cues.playing = some { x with superseded := true } ∧
          t.ports = (s.raise .cp (.cueSuperseded x.cue.handle)).ports) ∧
        ((x.superseded = true ∨ x.cue.slot ≠ some r.slot ∨
            (x.cue.platform = r.platform ∧ x.cue.effective = some r.effective ∧
              (x.cue.kind = .delay → x.cue.delay = some r.delay) ∧
              ((x.cue.kind = .delay ∨ x.cue.kind = .cancel) → x.cue.remark = r.remark))) →
          t.cues.playing = some x ∧ t.ports = s.ports)) ∧
      t = { s with ports := t.ports, cues := { s.cues with
        safety := t.cues.safety, platform := t.cues.platform, delay := t.cues.delay, routine := t.cues.routine
        playing := t.cues.playing, inbox := rest } }) ∧
  (∀ (c : Instr) (n : Notification) (o : Option Ctrl) (rest : List CueMessage) (named : Cue → Bool) (s : State),
    s.operating → s.cues.inbox = .notice n o :: rest →
    ((c = .cueWithdraw ∧ ∃ slot kinds, n = .withdraw slot kinds ∧
        ∀ q : Cue, named q = decide (q.slot = some slot ∧ q.kind ∈ kinds)) ∨
      (c = .slotFreed ∧ ∃ slot, n = .freed slot ∧ ∀ q : Cue, named q = decide (q.slot = some slot)) ∨
      (c = .boardCleared ∧ n = .cleared ∧ ∀ q : Cue, named q = decide (q.kind ≠ .notice))) →
    ∃ t : State, exec c s = .next t ∧ t.cues.safety = s.cues.safety ∧
      (∀ k, k ≠ .safety → t.cues.queue k = (s.cues.queue k).filter fun q => !named q) ∧
      t.cues.withdrawnPlatform.toNat =
        min 65535 (s.cues.withdrawnPlatform.toNat + s.cues.platform.countP named) ∧
      t.cues.withdrawnDelay.toNat = min 65535 (s.cues.withdrawnDelay.toNat + s.cues.delay.countP named) ∧
      t.cues.withdrawnRoutine.toNat = min 65535 (s.cues.withdrawnRoutine.toNat + s.cues.routine.countP named) ∧
      (s.cues.playing = none → t.cues.playing = none ∧ t.ports = s.ports) ∧
      (∀ x, s.cues.playing = some x → named x.cue = true → x.superseded = false →
        t.cues.playing = some { x with superseded := true } ∧
        t.ports = (s.raise .cp (.cueSuperseded x.cue.handle)).ports) ∧
      (∀ x, s.cues.playing = some x → (named x.cue = false ∨ x.superseded = true) →
        t.cues.playing = some x ∧ t.ports = s.ports) ∧
      t = { s with ports := t.ports, cues := { s.cues with
        platform := t.cues.platform, delay := t.cues.delay, routine := t.cues.routine, playing := t.cues.playing
        withdrawnPlatform := t.cues.withdrawnPlatform, withdrawnDelay := t.cues.withdrawnDelay
        withdrawnRoutine := t.cues.withdrawnRoutine, inbox := rest } }) ∧
  (∀ (slot : Slot) (how : Ending) (o : Option Ctrl) (rest : List CueMessage) (s : State), s.operating →
    s.cues.inbox = .notice (.ended slot how) o :: rest →
    ∃ t : State, exec .recordEnded s = .next t ∧
      t = { s with ports := t.ports, cues := { s.cues with playing := t.cues.playing, inbox := rest } } ∧
      (s.cues.playing = none → t.cues.playing = none ∧ t.ports = s.ports) ∧
      (∀ x, s.cues.playing = some x → x.cue.slot = some slot → x.superseded = false →
        t.cues.playing = some { x with superseded := true } ∧
        t.ports = (s.raise .cp (.cueSuperseded x.cue.handle)).ports) ∧
      (∀ x, s.cues.playing = some x → (x.cue.slot ≠ some slot ∨ x.superseded = true) →
        t.cues.playing = some x ∧ t.ports = s.ports))

/-- ANNOUNCE (R153) and FETCH CUE (R146, R147, R149): a notice is appended to the SAFETY queue with the reply's
handle, SAFETY_CUE_READY raised, and CUE_READY where nothing plays (R140), or refused QUEUE_FULL at 16; a fetch is
refused BUSY while a cue plays, answers "no cue" where none is pending, and else plays the head of SAFETY first, then
by STRICT the first non-empty class, then by WEIGHTED the first non-empty class with credit, whose credit falls by 1,
all three reloaded first where no non-empty class has credit; the reply is the 31 bytes of 10.8, with 0 for an absent
platform (the model's choice, log 42), and with a free start row for the absent remark of a DELAY or CANCEL cue (log
19). -/
def Obligations.AnnounceAndFetchWorkTheQueues : Prop :=
  (∀ (c : Ctrl) (payload : List Byte) (ref : TextRef) (n : Nat) (s : State), s.commanded c.port codeAnnounce payload →
    s.arbiter.holder = some c → parseAnnounce payload = some (ref, n) →
    (16 ≤ s.cues.safety.length →
      exec (.announce c) s = .next (s.answered c.port codeAnnounce payload ⟨.queueFull, []⟩)) ∧
    (s.cues.safety.length < 16 →
      ∃ (t : State) (q : Cue), exec (.announce c) s = .next t ∧ t.cues.safety = s.cues.safety ++ [q] ∧ q.kind = .notice ∧
        q.text = some ref ∧ q.repeats = n ∧ q.issued = s.cues.working ∧ q.handle = s.cues.freeHandle ∧
        t.cues.nextHandle = q.handle % 255 + 1 ∧
        t.repliedWith c.port codeAnnounce payload ⟨.done, [byte q.handle]⟩ ∧
        ((s.port .cp).enables.getLsbD 32 = true → Event.safetyCueReady ∈ (t.port .cp).events) ∧
        (s.cues.playing = none → t.ports = (((s.raise .cp .safetyCueReady).raise .cp .cueReady).answered c.port
          codeAnnounce payload ⟨.done, [byte q.handle]⟩).ports) ∧
        (s.cues.playing ≠ none → t.ports =
          ((s.raise .cp .safetyCueReady).answered c.port codeAnnounce payload ⟨.done, [byte q.handle]⟩).ports) ∧
        t = { s with ports := t.ports, cues := { s.cues with safety := t.cues.safety, nextHandle := t.cues.nextHandle } })) ∧
  (∀ s : State, s.commanded .cp codeFetchCue [] →
    (s.cues.playing ≠ none →
      exec .fetchCue s = .next (s.answered .cp codeFetchCue [] ⟨.busy, []⟩)) ∧
    (s.cues.playing = none → (∀ k, s.cues.queue k = []) →
      exec .fetchCue s = .next (s.answered .cp codeFetchCue [] ⟨.done, [0]⟩)) ∧
    (s.cues.playing = none → ∀ (k : CueClass) (q : Cue) (qs : List Cue) (c : Cues), s.cues.queue k = q :: qs →
      (k = .safety ∧ c = s.cues ∨
        s.cues.safety = [] ∧ s.settings.scheduling = .strict ∧ c = s.cues ∧
          (k = .platform ∨ k = .delay ∧ s.cues.platform = [] ∨
            k = .routine ∧ s.cues.platform = [] ∧ s.cues.delay = []) ∨
        s.cues.safety = [] ∧ s.settings.scheduling = .weighted ∧ 0 < s.cues.credit k ∧ c = s.cues.spend k ∧
          (k = .platform ∨ k = .delay ∧ (s.cues.platform = [] ∨ s.cues.creditPlatform = 0) ∨
            k = .routine ∧ (s.cues.platform = [] ∨ s.cues.creditPlatform = 0) ∧
              (s.cues.delay = [] ∨ s.cues.creditDelay = 0)) ∨
        s.cues.safety = [] ∧ s.settings.scheduling = .weighted ∧
          (∀ j, s.cues.queue j ≠ [] → s.cues.credit j = 0) ∧
          (k = .platform ∧ 0 < s.settings.platformWeight ∧
            c = { s.cues with creditPlatform := s.settings.platformWeight - 1, creditDelay := s.settings.delayWeight
                              creditRoutine := s.settings.routineWeight } ∨
            k = .delay ∧ s.cues.platform = [] ∧ 0 < s.settings.delayWeight ∧
            c = { s.cues with creditPlatform := s.settings.platformWeight, creditDelay := s.settings.delayWeight - 1
                              creditRoutine := s.settings.routineWeight } ∨
            k = .routine ∧ s.cues.platform = [] ∧ s.cues.delay = [] ∧ 0 < s.settings.routineWeight ∧
            c = { s.cues with creditPlatform := s.settings.platformWeight, creditDelay := s.settings.delayWeight
                              creditRoutine := s.settings.routineWeight - 1 })) →
      ∃ (t : State) (bs noRow : List Byte), exec .fetchCue s = .next (t.answered .cp codeFetchCue [] ⟨.done, bs⟩) ∧
        bs.length = 31 ∧ noRow.length = 2 ∧ (q.kind ≠ .delay → q.kind ≠ .cancel → noRow = [0, 0]) ∧
        bs = [1, byte q.handle, q.kind.number, byte q.kind.cls.number,
            (match q.slot with
              | none => 0xFF
              | some i => byte i.val)] ++ packCode q.code ++
          [byte (q.platform.getD 0), byte (q.previous.getD 0)] ++ beInt (q.effective.getD 0) ++ beInt (q.delay.getD 0) ++
          (match q.destination with
            | none => [0, 0, 0]
            | some y => be16 y.row ++ [byte y.len]) ++
          (match q.remark with
            | none => noRow ++ [0]
            | some y => be16 y.row ++ [byte y.len]) ++
          (match q.text with
            | none => [0, 0, 0]
            | some y => be16 y.row ++ [byte y.len]) ++
          [byte q.repeats] ++ beInt q.issued ++ be16 (s.cues.working - q.issued).toNat ∧
        t = { s with cues := { c.setQueue k qs with
          playing := some ⟨q, false, s.settings.playTimeout * 1024000⟩ } }))

/-- The end of the playing cue (R150, R151): a handle that is not the playing cue's is refused NO_CUE; a NOTICE played
with repeats left is appended again with one fewer, with SAFETY_CUE_READY and CUE_READY, or dropped at a full SAFETY
queue, counted, with CUE_DROPPED and CUE_READY; every other cue leaves, with CUE_READY where cues are pending, and
nothing is counted; the play timer's expiry ends it as aborted and is counted. -/
def Obligations.PlayingEndsByReportOrTimeout : Prop :=
  (∀ (payload : List Byte) (h : Nat) (played : Bool) (s : State), s.commanded .cp codeCueDone payload →
    parseDone payload = some (h, played) →
    ((∀ x, s.cues.playing = some x → x.cue.handle ≠ h) →
      exec .cueDone s = .next (s.answered .cp codeCueDone payload ⟨.noCue, []⟩)) ∧
    (∀ x, s.cues.playing = some x → x.cue.handle = h →
      ∃ t : State, exec .cueDone s = .next t ∧ t.cues.playing = none ∧ t.repliedWith .cp codeCueDone payload ⟨.done, []⟩ ∧
        t = { s with ports := t.ports, cues := { s.cues with
          playing := none, safety := t.cues.safety, dropSafety := t.cues.dropSafety } } ∧
        ((x.cue.kind ≠ .notice ∨ played = false ∨ x.cue.repeats = 0) → t.cues = { s.cues with playing := none } ∧
          ((∀ k, s.cues.queue k = []) → t.ports = (s.answered .cp codeCueDone payload ⟨.done, []⟩).ports) ∧
          ((∃ k, s.cues.queue k ≠ []) →
            t.ports = ((s.raise .cp .cueReady).answered .cp codeCueDone payload ⟨.done, []⟩).ports)) ∧
        (x.cue.kind = .notice → played = true → 0 < x.cue.repeats →
          (s.cues.safety.length < 16 →
            t.cues.safety = s.cues.safety ++ [{ x.cue with repeats := x.cue.repeats - 1 }] ∧
            t.cues.dropSafety = s.cues.dropSafety ∧
            t.ports = (((s.raise .cp .safetyCueReady).raise .cp .cueReady).answered .cp codeCueDone payload
              ⟨.done, []⟩).ports) ∧
          (s.cues.safety.length = 16 → t.cues.safety = s.cues.safety ∧
            t.cues.dropSafety = (if s.cues.dropSafety = 0xFFFF then 0xFFFF else s.cues.dropSafety + 1) ∧
            t.ports = (((s.raiseRouted (.cueDropped .safety)).raise .cp .cueReady).answered .cp codeCueDone payload
              ⟨.done, []⟩).ports)))) ∧
  (∀ (x : Playing) (s : State), s.operating → s.cues.playing = some x → x.left = 0 →
    ∃ t : State, exec .playTimerExpiry s = .next t ∧
      t.cues = { s.cues with
        playing := none
        playTimeouts := if s.cues.playTimeouts = 0xFFFF then 0xFFFF else s.cues.playTimeouts + 1 } ∧
      ((∀ k, s.cues.queue k = []) → t.ports = s.ports) ∧
      ((∃ k, s.cues.queue k ≠ []) → t.ports = (s.raise .cp .cueReady).ports) ∧
      t = { s with cues := t.cues, ports := t.ports })

/-! ### The clock lines (chapter 9) -/

/-- A minute event and a spacing timer's expiry evaluate a line (R157, R158, R159, R160): at the target it is IN_STEP;
one behind it is IN_STEP with an impulse due; ahead by at most its wait window it is WAITING; else CATCHING with an
impulse due; a due impulse starts where the spacing timer allows, writing the retention entry with its flag set; where
none starts the entry stands. A line in OFF, UNKNOWN or FAULT, or with an impulse in flight, takes nothing from a
minute event. What two lines of one minute event raise to a watch follows log 41, and is not part of this. -/
def Obligations.LinesAreEvaluatedAgainstTheMinute : Prop :=
  ∀ (l : Line) (s : State), s.operating →
    (∀ n rest, s.clock.inbox = n :: rest →
      ∃ t : State, exec .clockMinuteEvent s = .next t ∧ t.clock.working = n ∧ t.clock.clockSet = true ∧ t.clock.inbox = rest ∧
        t = { s with clock := t.clock, retention := t.retention, ports := t.ports } ∧
        ((s.clock.lines[l].state.evaluable = false ∨ s.clock.lines[l].impulse ≠ none) →
          t.clock.lines[l] = s.clock.lines[l] ∧ t.retention.entries[l] = s.retention.entries[l]) ∧
        (∀ m d, s.clock.lines[l].state.evaluable = true → s.clock.lines[l].impulse = none →
          s.clock.lines[l].shown = some m →
          d = ((((s.settings.dayStart + n) % 720 : Nat) : Int) - m) % 720 →
          (d = 0 → t.clock.lines[l] = { s.clock.lines[l] with state := .inStep } ∧
            t.retention.entries[l] = s.retention.entries[l]) ∧
          (d ≠ 0 → (720 - s.settings.lines[l].wait : Int) ≤ d →
            t.clock.lines[l] = { s.clock.lines[l] with state := .waiting } ∧
            t.retention.entries[l] = s.retention.entries[l]) ∧
          (d ≠ 0 → d < 720 - s.settings.lines[l].wait →
            (∀ left, s.clock.lines[l].spacing = .running left → t.clock.lines[l] = { s.clock.lines[l] with
              state := if d = 1 then .inStep else .catching } ∧ t.retention.entries[l] = s.retention.entries[l]) ∧
            ((s.clock.lines[l].spacing = .stopped ∨ s.clock.lines[l].spacing = .runOut) →
              t.clock.lines[l] = { s.clock.lines[l] with
                state := if d = 1 then .inStep else .catching
                impulse := some ⟨s.clock.lines[l].polarity, s.settings.lines[l].width⟩
                spacing := .running (s.settings.lines[l].fast * 1024000) } ∧
              t.retention.entries[l] = ⟨m, s.clock.lines[l].polarity, true⟩)))) ∧
    (s.clock.lines[l].spacing = .running 0 →
      ∃ t : State, exec (.spacingTimerExpiry l) s = .next t ∧ s.changesLine t l ∧
        ((s.clock.lines[l].state.evaluable = false ∨ s.clock.lines[l].impulse ≠ none) →
          t.clock.lines[l] = { s.clock.lines[l] with spacing := .runOut } ∧ t.retention = s.retention) ∧
        (∀ m, s.clock.lines[l].state.evaluable = true → s.clock.lines[l].impulse = none → s.clock.lines[l].shown = some m →
          s.evaluates l m { s.clock.lines[l] with spacing := .runOut } t.clock.lines[l] s.retention.entries[l]
            t.retention.entries[l]))

/-- The end of an impulse (R161, R162, R163): a completion advances the shown minute, changes the polarity, ends the
impulse and writes the entry with its flag clear, and the line goes OFF where that was requested; where it was not, an
evaluable line is evaluated by R158, which may start the next impulse, with the flag set again. A fault report leaves
minute and polarity, writes the entry with its flag clear, stops the timer, makes the line FAULT, or OFF where
requested, and raises CLOCK_LINE_FAULT. With no impulse in flight neither does anything. -/
def Obligations.ImpulsesEndCompleteOrFaulted : Prop :=
  ∀ (l : Line) (s : State), s.operating →
    (s.clock.lines[l].impulse = none → exec (.impulseCompletion l) s = .next s ∧
      ∀ kind, exec (.lineFaultReport l kind) s = .next s) ∧
    (∀ p m, s.clock.lines[l].impulse = some p → s.clock.lines[l].shown = some m →
      (∃ (t : State) (done : LineRecord), exec (.impulseCompletion l) s = .next t ∧
        done = { s.clock.lines[l] with
          shown := some ((m + 1) % 720), impulse := none
          polarity := if s.clock.lines[l].polarity = .positive then .negative else .positive } ∧
        t.clock.lines[l].shown = done.shown ∧ t.clock.lines[l].polarity = done.polarity ∧
        t.retention.valid = true ∧
        (s.clock.lines[l].offRequested = true →
          t.clock.lines[l] = { done with state := .off, offRequested := false, spacing := .stopped } ∧
          t.retention.entries[l] = ⟨(m + 1) % 720, done.polarity, false⟩) ∧
        (s.clock.lines[l].offRequested = false → s.clock.lines[l].state.evaluable = false →
          t.clock.lines[l] = done ∧ t.retention.entries[l] = ⟨(m + 1) % 720, done.polarity, false⟩) ∧
        (s.clock.lines[l].offRequested = false → s.clock.lines[l].state.evaluable = true →
          s.evaluates l ((m + 1) % 720) done t.clock.lines[l] ⟨(m + 1) % 720, done.polarity, false⟩
            t.retention.entries[l]) ∧
        (∀ j : Line, j ≠ l → t.clock.lines[j] = s.clock.lines[j] ∧ t.retention.entries[j] = s.retention.entries[j]) ∧
        t = { s with clock := { s.clock with lines := t.clock.lines }, retention := t.retention, ports := t.ports }) ∧
      (∀ kind, ∃ t : State, exec (.lineFaultReport l kind) s = .next t ∧
        t.clock.lines[l] = { s.clock.lines[l] with
          state := if s.clock.lines[l].offRequested then .off else .fault kind
          impulse := none, offRequested := false, spacing := .stopped } ∧
        t.retention = ⟨put s.retention.entries l ⟨m, s.clock.lines[l].polarity, false⟩, true⟩ ∧
        (∀ q : Ctrl, s.routes s.settings.routing.clockLineFault q → (s.port q.port).enables.getLsbD 10 = true →
          Event.clockLineFault l kind ∈ (t.port q.port).events) ∧
        (∀ j : Line, j ≠ l → t.clock.lines[j] = s.clock.lines[j]) ∧
        t = { s with clock := { s.clock with lines := t.clock.lines }, retention := t.retention, ports := t.ports }))

/-- The line commands (R164, R165, R166, R167): SET DIAL SHOWN is refused BUSY during an impulse and WRONG_STATE
against the known polarity, else sets minute, polarity and entry, and evaluates a line that was UNKNOWN or is
evaluable (R158); LINE OFF turns the line OFF at once or requests it; LINE ON is refused WRONG_STATE unless the line
is OFF and enabled, and makes a line without a shown minute UNKNOWN; CLEAR LINE FAULT is refused WRONG_STATE unless
the line is in FAULT; a line that either brings to NO_TIME is evaluated. LINE OFF writes no retention entry, and LINE
ON and CLEAR LINE FAULT none but that of an impulse their evaluation starts (R163). -/
def Obligations.LineCommandsFollowTheirTables : Prop :=
  ∀ (c : Ctrl) (payload : List Byte) (l : Line) (s : State), s.arbiter.holder = some c →
    (∀ m pol, s.commanded c.port codeSetDialShown payload → parseDial payload = some (l, m, pol) →
      (s.clock.lines[l].impulse ≠ none →
        exec (.setDialShown c) s = .next (s.answered c.port codeSetDialShown payload ⟨.busy, []⟩)) ∧
      (s.clock.lines[l].impulse = none → s.clock.lines[l].shown ≠ none → pol ≠ s.clock.lines[l].polarity →
        exec (.setDialShown c) s = .next (s.answered c.port codeSetDialShown payload ⟨.wrongState, []⟩)) ∧
      (s.clock.lines[l].impulse = none → (s.clock.lines[l].shown = none ∨ pol = s.clock.lines[l].polarity) →
        ∃ t : State, exec (.setDialShown c) s = .next t ∧ t.clock.lines[l].shown = some m ∧ t.clock.lines[l].polarity = pol ∧
          t.repliedWith c.port codeSetDialShown payload ⟨.done, []⟩ ∧
          (∀ j : Line, j ≠ l → t.clock.lines[j] = s.clock.lines[j] ∧ t.retention.entries[j] = s.retention.entries[j]) ∧
          t = { s with
            clock := { s.clock with lines := t.clock.lines }, retention := t.retention, ports := t.ports } ∧
          t.retention.valid = true ∧
          (t.clock.lines[l].impulse = none → t.retention = ⟨put s.retention.entries l ⟨m, pol, false⟩, true⟩) ∧
          ((s.clock.clockSet = false ∨ s.clock.lines[l].state.evaluable = false ∧ s.clock.lines[l].state ≠ .unknown) →
            t.retention = ⟨put s.retention.entries l ⟨m, pol, false⟩, true⟩) ∧
          ((s.clock.lines[l].state = .off ∨ ∃ k, s.clock.lines[l].state = .fault k) →
            t.clock.lines[l] = { s.clock.lines[l] with shown := some m, polarity := pol }) ∧
          (s.clock.lines[l].state = .unknown → s.clock.clockSet = false → t.clock.lines[l].state = .noTime) ∧
          ((s.clock.lines[l].state = .unknown ∨ s.clock.lines[l].state.evaluable = true) →
            s.evaluates l m { s.clock.lines[l] with shown := some m, polarity := pol } t.clock.lines[l]
              ⟨m, pol, false⟩ t.retention.entries[l]))) ∧
    (parseLine payload = some l →
      (s.commanded c.port codeLineOff payload →
        (s.clock.lines[l].state = .off →
          exec (.lineOff c) s = .next (s.answered c.port codeLineOff payload ⟨.done, []⟩)) ∧
        (s.clock.lines[l].state ≠ .off →
          ∃ t : State, exec (.lineOff c) s = .next t ∧ t.repliedWith c.port codeLineOff payload ⟨.done, []⟩ ∧
            s.changesLine t l ∧ t.retention = s.retention ∧
            (s.clock.lines[l].impulse ≠ none →
              t.clock.lines[l] = { s.clock.lines[l] with offRequested := true }) ∧
            (s.clock.lines[l].impulse = none → t.clock.lines[l] = { s.clock.lines[l] with
              state := .off, offRequested := false, spacing := .stopped }))) ∧
      (s.commanded c.port codeLineOn payload →
        ((s.clock.lines[l].state ≠ .off ∨ s.settings.lines[l].enabled = false) →
          exec (.lineOn c) s = .next (s.answered c.port codeLineOn payload ⟨.wrongState, []⟩)) ∧
        (s.clock.lines[l].state = .off → s.settings.lines[l].enabled = true →
          ∃ t : State, exec (.lineOn c) s = .next t ∧ t.repliedWith c.port codeLineOn payload ⟨.done, []⟩ ∧
            s.changesLine t l ∧
            (s.clock.lines[l].shown = none → t.clock.lines[l] = { s.clock.lines[l] with state := .unknown }) ∧
            (s.clock.lines[l].shown ≠ none → s.clock.clockSet = false →
              t.clock.lines[l] = { s.clock.lines[l] with state := .noTime }) ∧
            (∀ m, s.clock.lines[l].shown = some m → s.clock.clockSet = true → s.dialTarget = m → m < 720 →
              t.clock.lines[l].state = if s.clock.lines[l].impulse = none then .inStep else .noTime) ∧
            (∀ m, s.clock.lines[l].shown = some m → s.clock.lines[l].impulse = none →
              s.evaluates l m s.clock.lines[l] t.clock.lines[l] s.retention.entries[l] t.retention.entries[l]))) ∧
      (s.commanded c.port codeClearLineFault payload →
        ((∀ k, s.clock.lines[l].state ≠ .fault k) →
          exec (.clearLineFault c) s = .next (s.answered c.port codeClearLineFault payload ⟨.wrongState, []⟩)) ∧
        (∀ k, s.clock.lines[l].state = .fault k →
          ∃ t : State, exec (.clearLineFault c) s = .next t ∧ t.repliedWith c.port codeClearLineFault payload ⟨.done, []⟩ ∧
            s.changesLine t l ∧
            (s.clock.clockSet = false → t.clock.lines[l] = { s.clock.lines[l] with state := .noTime }) ∧
            (∀ m, s.clock.lines[l].shown = some m → s.clock.lines[l].impulse = none →
              s.evaluates l m s.clock.lines[l] t.clock.lines[l] s.retention.entries[l] t.retention.entries[l]))))

/-! ### Configuration and counters (chapter 11, 10.6) -/

/-- WRITE CONFIG ITEM and READ CONFIG ITEM (R186): an unknown tag, a wrong length or value, and a lead that breaks the
constraint of R54 are refused BAD_ARGUMENT; DAY START is refused WRONG_STATE while the time is set (R18); else the
item's active value is replaced by the bytes written and no other item's, which leaves a configuration in its ranges
in them, with the conflict check of R27, its flags and the PLATFORM_CONFLICT of each pair it adds (R28), the credit
reload of R148, the leaving of HALTED of R129 and the line effects of R168 (of a whole line item, log 39; with enabled
NO it is turned off without an evaluation before it, the model's choice, log 46); the read answers tag, length and
value. Every value of a configuration in its ranges is one that a write accepts. -/
def Obligations.ConfigurationItemsAreWrittenAndRead : Prop :=
  ∀ (c : Ctrl) (payload : List Byte) (s : State),
    (s.commanded c.port codeWriteConfigItem payload → s.arbiter.holder = some c →
      ∀ tag value, parseItem payload = some (tag, value) →
      (itemOfTag tag = none →
        exec (.writeConfigItem c) s = .next (s.answered c.port codeWriteConfigItem payload ⟨.badArgument, []⟩)) ∧
      (∀ i, itemOfTag tag = some i →
        (i.store s.settings value = none →
          exec (.writeConfigItem c) s = .next (s.answered c.port codeWriteConfigItem payload ⟨.badArgument, []⟩)) ∧
        (∀ cfg : Settings, cfg.inRange → value = i.value cfg → i.store s.settings value ≠ none) ∧
        (∀ cfg, i.store s.settings value = some cfg →
          ((i = .callLead ∨ i = .closeLead) → cfg.callLead ≤ cfg.closeLead →
            exec (.writeConfigItem c) s = .next (s.answered c.port codeWriteConfigItem payload ⟨.badArgument, []⟩)) ∧
          (i = .dayStart → s.time.state ≠ .unset →
            exec (.writeConfigItem c) s = .next (s.answered c.port codeWriteConfigItem payload ⟨.wrongState, []⟩)) ∧
          (((i = .callLead ∨ i = .closeLead) → cfg.closeLead < cfg.callLead) →
            (i = .dayStart → s.time.state = .unset) →
            ∃ t : State, exec (.writeConfigItem c) s = .next t ∧ t.settings = cfg ∧
              i.value cfg = value ∧ (∀ j : Item, j ≠ i → j.value cfg = j.value s.settings) ∧
              (s.settings.inRange → cfg.inRange) ∧
              t.repliedWith c.port codeWriteConfigItem payload ⟨.done, []⟩ ∧
              t = { s with settings := cfg, ports := t.ports, cues := t.cues, links := t.links, clock := t.clock
                           retention := t.retention, table := t.table } ∧
              ((∀ k, i ≠ .plan k) → t.links = s.links) ∧
              ((∀ k, i ≠ .line k) → t.clock = s.clock ∧ t.retention = s.retention) ∧
              (i ≠ .conflictWindow → t.table = s.table) ∧
              (i = .conflictWindow → t.table = { s.table with slots := t.table.slots, pairs := t.table.pairs } ∧
                (∀ j : Slot, (t.table.slots[j]).map Record.unflagged = (s.table.slots[j]).map Record.unflagged) ∧
                (∀ a b : Slot, (a, b) ∈ t.table.pairs ↔ a < b ∧ t.table.conflictPair cfg.conflictWindow a b = true) ∧
                t.table.pairs.Pairwise (fun p q => p.1 < q.1 ∨ p.1 = q.1 ∧ p.2 < q.2) ∧
                (∀ (j : Slot) (r : Record), t.table.slots[j] = some r →
                  (r.conflict = true ↔ ∃ k : Slot, (j, k) ∈ t.table.pairs ∨ (k, j) ∈ t.table.pairs)) ∧
                (∀ conflicts, conflicts = (t.table.pairs.filter fun p => decide (p ∉ s.table.pairs)).map (fun p =>
                    Event.platformConflict ((t.table.slots[p.1].bind fun r => r.platform).getD 0) p.1 p.2) →
                  t.ports = ((({ s with settings := cfg } : State).raiseAll conflicts).answered c.port
                    codeWriteConfigItem payload ⟨.done, []⟩).ports)) ∧
              ((∀ k, i ≠ .line k) → i ≠ .conflictWindow →
                t.ports = (s.answered c.port codeWriteConfigItem payload ⟨.done, []⟩).ports) ∧
              ((i ≠ .scheduling ∧ i ≠ .platformWeight ∧ i ≠ .delayWeight ∧ i ≠ .routineWeight) → t.cues = s.cues) ∧
              ((i = .scheduling ∨ i = .platformWeight ∨ i = .delayWeight ∨ i = .routineWeight) →
                t.cues = { s.cues with creditPlatform := cfg.platformWeight, creditDelay := cfg.delayWeight
                                       creditRoutine := cfg.routineWeight }) ∧
              (∀ k, i = .plan k → cfg.plans[k].enabled = true → s.links[k].state = .halted →
                t.links[k] = { s.links[k] with state := .ended, refresh := .runOut } ∧
                ∀ j : Chain, j ≠ k → t.links[j] = s.links[j]) ∧
              (∀ k, i = .plan k → (cfg.plans[k].enabled = false ∨ s.links[k].state ≠ .halted) → t.links = s.links) ∧
              (∀ k, i = .line k → ({ s with settings := cfg } : State).changesLine t k ∧
                (cfg.lines[k].enabled = false →
                  t.retention = s.retention ∧
                  (s.clock.lines[k].state = .off → t.clock = s.clock) ∧
                  (s.clock.lines[k].state ≠ .off → s.clock.lines[k].impulse = none → t.clock.lines[k] =
                    { s.clock.lines[k] with state := .off, offRequested := false, spacing := .stopped }) ∧
                  (s.clock.lines[k].state ≠ .off → s.clock.lines[k].impulse ≠ none →
                    t.clock.lines[k] = { s.clock.lines[k] with offRequested := true })) ∧
                (cfg.lines[k].enabled = true →
                  ((s.clock.lines[k].state.evaluable = false ∨ s.clock.lines[k].impulse ≠ none) →
                    t.clock = s.clock ∧ t.retention = s.retention) ∧
                  (∀ m, s.clock.lines[k].state.evaluable = true → s.clock.lines[k].impulse = none →
                    s.clock.lines[k].shown = some m →
                    ({ s with settings := cfg } : State).evaluates k m s.clock.lines[k] t.clock.lines[k]
                      s.retention.entries[k] t.retention.entries[k]))))))) ∧
    (s.commanded c.port codeReadConfigItem payload →
      (∀ tag i, payload = [tag] → itemOfTag tag = some i →
        exec (.readConfigItem c) s = .next (s.answered c.port codeReadConfigItem payload
          ⟨.done, [i.tag, byte (i.value s.settings).length] ++ i.value s.settings⟩)) ∧
      (((∀ tag, payload ≠ [tag]) ∨ ∃ tag, payload = [tag] ∧ itemOfTag tag = none) →
        exec (.readConfigItem c) s = .next (s.answered c.port codeReadConfigItem payload ⟨.badArgument, []⟩)))

/-- COMMIT CONFIG takes every item's active value at its acceptance, or is refused BUSY; by success its completion
replaces the stored block, and by verify failure keeps it; either raises its event to the issuing port and leaves the
engine IDLE (R91, R187). -/
def Obligations.ConfigurationCommitReplacesTheStoredBlock : Prop :=
  (∀ (c : Ctrl) (s : State), s.commanded c.port codeCommitConfig [] → s.arbiter.holder = some c →
    (s.store.engine ≠ none → exec (.commitConfig c) s = .next (s.answered c.port codeCommitConfig [] ⟨.busy, []⟩)) ∧
    (s.store.engine = none → exec (.commitConfig c) s = .next (({ s with store := { s.store with
      engine := some ⟨.config s.settings, c⟩ } } : State).answered c.port codeCommitConfig []
        ⟨.accepted, [0xFF, 0xFF]⟩))) ∧
  (∀ (items : Settings) (issuer : Ctrl) (s : State), s.operating → s.store.engine = some ⟨.config items, issuer⟩ →
    exec (.configCommitCompletion true) s = .next (({ s with
      store := { s.store with engine := none }, stored := ⟨encodeBlock items, false⟩ } : State).raise issuer.port
        (.commitDone .config)) ∧
    exec (.configCommitCompletion false) s = .next (({ s with
      store := { s.store with engine := none } } : State).raise issuer.port (.commitFailed .config)))

/-- The block a successful commit writes is read back at start-up as the configuration it was taken from, where every
item is in its range (R187, R188): its CRC matches, and every item of the 47 comes back. -/
def Obligations.StoredBlockGivesBackTheConfiguration : Prop :=
  ∀ cfg : Settings, cfg.inRange → (StoredBlock.mk (encodeBlock cfg) false).intact = true ∧
    (StoredBlock.mk (encodeBlock cfg) false).settings = cfg

/-- The status reads answer what stands, in the layouts of 10.8, and change nothing (R81, R115, R154, R169, R183,
R191), and CLEAR COUNTERS sets every counter to 0 and changes nothing else (R184). The fields of an absent notice or
item that 10.8 leaves open, and the revision number, are free (logs 19, 20). -/
def Obligations.StatusReadsChangeNothing : Prop :=
  ∀ (c : Ctrl) (p : Port) (s : State),
    (s.commanded c.port codeReadAuthority [] → ∃ bs : List Byte, exec (.readAuthority c) s =
        .next (s.answered c.port codeReadAuthority [] ⟨.done, bs⟩) ∧
      bs = [(match s.arbiter.holder with | none => 0 | some .p0 => 1 | some .p1 => 2),
        (match s.arbiter.waiting with | none => 0xFF | some .p0 => 0 | some .p1 => 1),
        (if s.arbiter.holder = some c then 0 else if s.arbiter.waiting = some c then 1 else 2),
        byte s.arbiter.yieldRemaining, (if s.settings.seizeEnable then 1 else 0)] ∧
      (s.arbiter.waiting = none → s.arbiter.yieldRemaining = 0) ∧
      (∀ w left, s.arbiter.waiting = some w → s.arbiter.yield = .running left →
        left ≤ s.arbiter.yieldRemaining * 1024000 ∧ s.arbiter.yieldRemaining * 1024000 < left + 1024000)) ∧
    (s.commanded c.port codeReadLines [] → ∃ bs : List Byte, exec (.readLines c) s =
        .next (s.answered c.port codeReadLines [] ⟨.done, bs⟩) ∧ bs.length = 63 ∧
      bs = [byte (s.clock.working / 256), byte s.clock.working, (if s.clock.clockSet then 1 else 0)] ++
        (List.finRange 4).flatMap fun l : Line =>
          [(match s.clock.lines[l].state with
            | .off => 0
            | .unknown => 1
            | .noTime => 2
            | .inStep => 3
            | .catching => 4
            | .waiting => 5
            | .fault _ => 6 : Byte)] ++
          (match s.clock.lines[l].shown with
            | none => [0xFF, 0xFF]
            | some m => be16 m) ++
          [(match s.clock.lines[l].polarity with
            | .positive => 0
            | .negative => 1 : Byte),
           (match s.clock.lines[l].state with
            | .fault .openLine => 0
            | .fault .short => 1
            | _ => 0xFF : Byte),
           byte ((if s.clock.lines[l].impulse = none then 0 else 1) + (if s.clock.lines[l].offRequested then 2 else 0))] ++
          (match s.clock.clockSet, s.clock.lines[l].shown with
            | true, some m => be16 ((s.settings.dayStart + s.clock.working) % 720) ++
                be16 (((((s.settings.dayStart + s.clock.working) % 720 : Nat) : Int) - m) % 720).toNat
            | _, _ => [0xFF, 0xFF, 0xFF, 0xFF]) ++
          [(if s.settings.lines[l].enabled then 1 else 0)] ++ be16 s.settings.lines[l].width ++
          [byte s.settings.lines[l].fast, byte s.settings.lines[l].wait]) ∧
    (s.commanded c.port codeReadNotices [] →
      ∃ (bs noRow noExpiry : List Byte) (noPriority noPlace noPart : Byte), exec (.readNotices c) s =
        .next (s.answered c.port codeReadNotices [] ⟨.done, bs⟩) ∧ bs.length = 92 ∧ noRow.length = 2 ∧
      noExpiry.length = 2 ∧
      bs = ((List.finRange 8).flatMap fun q : Fin 8 => match s.composer.notices[q] with
          | none => [0] ++ noRow ++ [0, noPriority] ++ noExpiry
          | some n => [1] ++ be16 n.ref.row ++ [byte n.ref.len, byte n.priority] ++
              (match n.expiry with
                | none => [0x80, 0]
                | some m => beInt m)) ++
        (List.finRange 4).flatMap fun k : Chain => match s.composer.views[k].cursor with
          | none => [0, noPlace, 0, 0, 0, 0, 0, 0, noPart]
          | some ⟨.position q, part⟩ => [1, byte q.val, 0, 0, 0, 0, 0, 0, byte part]
          | some ⟨.automatic i code, part⟩ => [2, byte i.val] ++ packCode code ++ [byte part]) ∧
    (s.commanded c.port codeReadCueStatus [] → ∃ bs : List Byte, exec (.readCueStatus c) s =
        .next (s.answered c.port codeReadCueStatus [] ⟨.done, bs⟩) ∧ bs.length = 40 ∧
      bs = [byte s.cues.safety.length, byte s.cues.platform.length, byte s.cues.delay.length,
          byte s.cues.routine.length] ++
        ([s.cues.safety, s.cues.platform, s.cues.delay, s.cues.routine].flatMap fun q => match q with
          | [] => [0, 0]
          | head :: _ => be16 (s.cues.working - head.issued).toNat) ++
        (match s.cues.playing with
          | none => [0, 0, 0, 0, 0, 0, 0, 0]
          | some x => [1, byte x.cue.handle, x.cue.kind.number, byte x.cue.kind.cls.number,
              (match x.cue.slot with
                | none => 0xFF
                | some i => byte i.val), (if x.superseded then 1 else 0)] ++ be16 ((x.left + 1023999) / 1024000)) ++
        [(if s.settings.scheduling = .strict then 0 else 1), byte s.cues.creditPlatform, byte s.cues.creditDelay,
          byte s.cues.creditRoutine] ++
        ([s.cues.dropSafety, s.cues.dropPlatform, s.cues.dropDelay, s.cues.dropRoutine, s.cues.withdrawnPlatform,
          s.cues.withdrawnDelay, s.cues.withdrawnRoutine, s.cues.playTimeouts].flatMap fun n => be16 n.toNat)) ∧
    (s.commanded p codeReadCounters [] → ∃ bs : List Byte, exec (.readCounters p) s =
        .next (s.answered p codeReadCounters [] ⟨.done, bs⟩) ∧ bs.length = 80 ∧
      bs = ([s.ports.p0, s.ports.p1, s.ports.cp].flatMap fun q => be16 q.badFrames.toNat ++ be16 q.overruns.toNat) ++
        (List.finRange 4).flatMap fun k : Chain =>
          be16 s.links[k].stale.toNat ++ be16 s.links[k].absent.toNat ++ [(if s.links[k].fault then 1 else 0)] ++
          (List.finRange 12).map fun r : Fin 12 => byte ((match s.links[k].modules[r].last with
            | .ok => 0
            | .cellsDegraded => 1
            | .absent => 2) + 4 * s.links[k].modules[r].absentRun)) ∧
    (s.commanded p codeReadIdent [] → ∃ (bs : List Byte) (rev : Byte), exec (.readIdent p) s =
        .next (s.answered p codeReadIdent [] ⟨.done, bs⟩) ∧
      bs = [0x17, 0xFC, rev, byte s.ident.straps.unit.toNat,
        byte ((if s.ident.straps.rateFirst then 1 else 0) + (if s.ident.straps.rateSecond then 2 else 0) +
          (if s.ident.straps.pri then 4 else 0) + (if s.ident.straps.prot then 8 else 0)),
        byte (s.ident.failingRows / 256), byte s.ident.failingRows,
        byte ((if s.ident.configDefaulted then 1 else 0) + (if s.ident.retentionValid then 2 else 0))]) ∧
    (s.commanded c.port codeClearCounters [] → s.arbiter.holder = some c →
      ∃ t : State, exec (.clearCounters c) s = .next (t.answered c.port codeClearCounters [] ⟨.done, []⟩) ∧
        (∀ q : Port, t.port q = { s.port q with badFrames := 0, overruns := 0 }) ∧
        t.time = { s.time with accepted := 0, spurious := 0 } ∧
        (∀ k : Chain, t.links[k] = { s.links[k] with stale := 0, absent := 0 }) ∧
        t.cues = { s.cues with
          dropSafety := 0, dropPlatform := 0, dropDelay := 0, dropRoutine := 0, withdrawnPlatform := 0
          withdrawnDelay := 0, withdrawnRoutine := 0, playTimeouts := 0 } ∧
        t = { s with ports := t.ports, time := t.time, links := t.links, cues := t.cues })

/-! ### The ports (chapter 10) -/

/-- A whole frame at a port in HUNT (R174, R175, R77): with a LEN above 64 it is discarded and counted at the LEN
byte; with a bad CRC it is counted and discarded; with a good CRC and another unit it is discarded uncounted; a valid
one is taken for service while IDLE, refused BAD_COMMAND by the port where its code is not allowed there, and counted
as an overrun while SERVING; on the holder's port it restarts the holder silence timer. The codes allowed on each port
are those of 10.8's table. A byte other than 0xA5 in HUNT does nothing, and a frame may arrive in any pieces. What a
port then sends is its reply in the layout of 10.8, with STATUS in the place of CMD and the part's unit number in UNIT
(R176). -/
def Obligations.FramesAreJudgedAndTaken : Prop :=
  (∀ (p : Port) (code : Byte) (n : Nat), n = code.toNat → (codeAllowed p code = true ↔
    n = 0x21 ∨ n = 0x2C ∨ n = 0x48 ∨ n = 0x58 ∨ n = 0x5A ∨
    (p = .cp ∧ (n = 0x3A ∨ n = 0x3B)) ∨
    (p ≠ .cp ∧ ((1 ≤ n ∧ n ≤ 4) ∨ (0x10 ≤ n ∧ n ≤ 0x1C) ∨ n = 0x20 ∨ (0x28 ≤ n ∧ n ≤ 0x2B) ∨ (0x30 ≤ n ∧ n ≤ 0x32) ∨
      n = 0x38 ∨ n = 0x39 ∨ (0x40 ≤ n ∧ n ≤ 0x44) ∨ n = 0x49 ∨ n = 0x4A ∨ (0x50 ≤ n ∧ n ≤ 0x52) ∨ n = 0x59)))) ∧
  (∀ (p : Port) (xs ys : List Byte) (s : State), ∃ t : State, exec (.frameReceived p xs) s = .next t ∧
    exec (.frameReceived p (xs ++ ys)) s = exec (.frameReceived p ys) t) ∧
  (∀ (p : Port) (x : Byte) (s : State), s.operating → (s.port p).receiver = .hunt → x ≠ 0xA5 →
    exec (.frameReceived p [x]) s = .next s) ∧
  (∀ (p : Port) (unit code : Byte) (payload crc : List Byte) (s : State), s.operating →
    (s.port p).receiver = .hunt → payload.length ≤ 64 → crc.length = 2 →
    ∀ body frame, body = [unit, byte payload.length, code] ++ payload → frame = [0xA5] ++ body ++ crc →
    (crc ≠ be16 (crc16 body).toNat →
      exec (.frameReceived p frame) s = .next (s.setPort p { s.port p with
        badFrames := if (s.port p).badFrames = 0xFFFF then 0xFFFF else (s.port p).badFrames + 1 })) ∧
    (crc = be16 (crc16 body).toNat →
      (unit.toNat ≠ s.ident.straps.unit.toNat → exec (.frameReceived p frame) s = .next s) ∧
      (unit.toNat = s.ident.straps.unit.toNat →
        ∃ t : State, exec (.frameReceived p frame) s = .next t ∧
          ((∀ h : Ctrl, s.arbiter.holder = some h → h.port ≠ p) → t.arbiter = s.arbiter) ∧
          (∀ h : Ctrl, s.arbiter.holder = some h → h.port = p →
            t.arbiter = { s.arbiter with silence := .running (s.settings.holdSilence * 1024000) }) ∧
          ((s.port p).service = .idle → codeAllowed p code = true →
            t.port p = { s.port p with service := .serving code payload .waiting }) ∧
          ((s.port p).service = .idle → codeAllowed p code = false →
            t.port p = { s.port p with service := .serving code payload (.replied ⟨.badCommand, []⟩) }) ∧
          ((s.port p).service ≠ .idle → t.port p = { s.port p with
            overruns := if (s.port p).overruns = 0xFFFF then 0xFFFF else (s.port p).overruns + 1 }) ∧
          (∀ q, q ≠ p → t.port q = s.port q) ∧ t = { s with ports := t.ports, arbiter := t.arbiter }))) ∧
  (∀ (p : Port) (unit len : Byte) (s : State), s.operating → (s.port p).receiver = .hunt → 64 < len.toNat →
    exec (.frameReceived p [0xA5, unit, len]) s = .next (s.setPort p { s.port p with
      badFrames := if (s.port p).badFrames = 0xFFFF then 0xFFFF else (s.port p).badFrames + 1 })) ∧
  (∀ (p : Port) (code : Byte) (payload : List Byte) (r : Reply) (s : State),
    (s.port p).service = .serving code payload (.replied r) →
    ∃ body, body = [byte s.ident.straps.unit.toNat, byte r.payload.length, r.status.code] ++ r.payload ∧
      s.sentFrame p = some ([0xA5] ++ body ++ be16 (crc16 body).toNat))

/-- The line's other arrivals (R173, R174, R175): a gap and a low stop bit discard a frame in progress and count it,
and do nothing in HUNT; a break discards it uncounted; the end of a reply makes the service IDLE, once the command's
notifications are taken (R26, log 14). -/
def Obligations.LineDisturbancesAndTheEndOfAReply : Prop :=
  ∀ (p : Port) (s : State), s.operating →
    (∀ bytes, (s.port p).receiver = .inFrame bytes →
      exec (.frameGapExpiry p) s = .next (s.setPort p { s.port p with
        receiver := .hunt, badFrames := if (s.port p).badFrames = 0xFFFF then 0xFFFF else (s.port p).badFrames + 1 }) ∧
      exec (.stopBitError p) s = .next (s.setPort p { s.port p with
        receiver := .hunt, badFrames := if (s.port p).badFrames = 0xFFFF then 0xFFFF else (s.port p).badFrames + 1 }) ∧
      exec (.breakReceived p) s = .next (s.setPort p { s.port p with receiver := .hunt })) ∧
    ((s.port p).receiver = .hunt → exec (.frameGapExpiry p) s = .next s ∧ exec (.stopBitError p) s = .next s ∧
      exec (.breakReceived p) s = .next s) ∧
    (∀ code payload r, (s.port p).service = .serving code payload (.replied r) →
      (∀ m ∈ s.cues.inbox, ∀ n c, m = .notice n (some c) → c.port ≠ p) →
      exec (.replySent p) s = .next (s.setPort p { s.port p with service := .idle }))

/-- READ EVENT, SET EVENT ENABLE and POST WATCH (R177, R178, R179, R181): the entry of lowest code is answered, with
the number of entries left and its detail, and removed, code 0 with an empty set; the enables of codes 1 to 18 become
the mask, and the entries of kinds turned OFF leave the set, the attention line following; an empty mask removes the
watch, a watch whose masked items all have their posted values is kept, and one with a differing item fires at once
and is removed. A raised event goes by its routing item (R180): HOLDER to the holder, and to both control ports while
FREE, BOTH to both, NONE to neither; at a port where its kind is enabled it takes the place of an entry of its kind,
and else nothing is entered (R177). The status vector is the eleven items of 10.5 in their order, each by the position
of its value there. A change of a status item fires a kept watch that masks it where it leaves the item differing from
the value posted: the watch is removed, and WATCH_FIRED entered where enabled; a change that leaves it equal, or of an
unmasked item, fires nothing (R182; each change is offered in the step that makes it, log 34). So change the five
kinds of item: the authority at a grant, the time state at the end of a hold, the reference at the pulse interval's
expiry, a line at LINE OFF, a chain's fault at the third absence. -/
def Obligations.EventsAreReadEnabledAndWatched : Prop :=
  (∀ s : State, statusVector s =
    [(match s.arbiter.holder with
      | none => 0
      | some .p0 => 1
      | some .p1 => 2 : Byte),
     (match s.time.state with
      | .unset => 0
      | .running => 1
      | .holding _ => 2),
     (match s.time.ref with
      | .noRef => 0
      | .locked => 1
      | .lost => 2)] ++
    ((List.finRange 4).map fun l : Line => match s.clock.lines[l].state with
      | .off => 0
      | .unknown => 1
      | .noTime => 2
      | .inStep => 3
      | .catching => 4
      | .waiting => 5
      | .fault _ => (6 : Byte)) ++
    (List.finRange 4).map fun k : Chain => if s.links[k].fault = true then (0 : Byte) else 1) ∧
  (∀ (r : Routing) (kind : StepKind) (m : Nat) (l : Line) (fault : FaultKind) (k : Chain) (row p : Nat) (i j : Slot)
    (cls : CueClass),
    [Event.timeStepped kind m, .timeRefLost, .timeRefRegained, .dayRollover, .clockLineFault l fault, .chainFault k row,
      .platformConflict p i j, .boardChanged i, .cueDropped cls, .configDefaulted].map (Event.route r) =
    [r.timeStepped, r.timeRefLost, r.timeRefRegained, r.dayRollover, r.clockLineFault, r.chainFault, r.platformConflict,
      r.boardChanged, r.cueDropped, r.configDefaulted].map some) ∧
  (∀ (e : Event) (r : Route) (s t : State), e.route s.settings.routing = some r → t = s.raiseRouted e →
    t = { s with ports := t.ports } ∧ t.port .cp = s.port .cp ∧
    ∀ q : Ctrl,
      ((r = .none ∨ (r = .holder ∧ s.arbiter.holder = some q.other) ∨ (s.port q.port).enables.getLsbD e.code = false) →
        t.port q.port = s.port q.port) ∧
      ((r = .both ∨ (r = .holder ∧ (s.arbiter.holder = none ∨ s.arbiter.holder = some q))) →
        (s.port q.port).enables.getLsbD e.code = true →
        t.port q.port = { s.port q.port with events := (t.port q.port).events, attention := true } ∧
        e ∈ (t.port q.port).events ∧
        ∀ x : Event, x.code ≠ e.code → (x ∈ (t.port q.port).events ↔ x ∈ (s.port q.port).events))) ∧
  (∀ old new t : State, t = old.noted new → t = { new with ports := t.ports } ∧ t.port .cp = new.port .cp ∧
    ∀ c : Ctrl, ((new.port c.port).watch = none → t.port c.port = new.port c.port) ∧
      ∀ w, (new.port c.port).watch = some w →
        ((∀ i, i < 11 → w.mask.getLsbD i = true → (statusVector old)[i]? = (statusVector new)[i]? ∨
            w.values[i]? = (statusVector new)[i]?) → t.port c.port = new.port c.port) ∧
        (∀ i, i < 11 → w.mask.getLsbD i = true → (statusVector old)[i]? ≠ (statusVector new)[i]? →
          w.values[i]? ≠ (statusVector new)[i]? →
          ((new.port c.port).enables.getLsbD 17 = false →
            t.port c.port = { new.port c.port with watch := none }) ∧
          ((new.port c.port).enables.getLsbD 17 = true → ∃ items : BitVec 16,
            t.port c.port = { new.port c.port with
              watch := none, events := (t.port c.port).events, attention := true } ∧
            Event.watchFired items (statusVector new) ∈ (t.port c.port).events ∧
            (∀ x : Event, x.code ≠ 17 → (x ∈ (t.port c.port).events ↔ x ∈ (new.port c.port).events)) ∧
            ∀ j, j < 11 → items.getLsbD j =
              (w.mask.getLsbD j && decide (w.values[j]? ≠ (statusVector new)[j]?))))) ∧
  (∀ (c : Ctrl) (s : State), s.commanded c.port codeRequestAuthority [] → s.arbiter.holder = none →
    s.claims c.other = false →
    exec (.requestAuthority c) s = .next ((s.noted { s with arbiter := { s.arbiter with
      holder := some c, silence := .running (s.settings.holdSilence * 1024000) } }).answered c.port
        codeRequestAuthority [] ⟨.done, []⟩)) ∧
  (∀ (h : Nat) (s : State), s.released → s.time.completionDue = true → s.time.state = .holding h →
    (if s.time.second = 86399 then 0 else s.time.second + 1) / 60 = h →
    ∃ t : State, exec .secondCompletion s = .next t ∧ t.time.state = .running ∧
      t.ports = (s.noted { s with time := { s.time with state := .running } }).ports) ∧
  (∀ (ticks : Nat) (s : State), s.released → s.time.ref = .locked → s.time.pulseInterval = some ticks →
    184320 ≤ ticks → exec .pulseIntervalExpiry s =
      .next ((s.noted { s with time := { s.time with ref := .lost } }).raiseRouted .timeRefLost)) ∧
  (∀ (c : Ctrl) (payload : List Byte) (l : Line) (r : LineRecord) (s : State), s.commanded c.port codeLineOff payload →
    s.arbiter.holder = some c → parseLine payload = some l → r = s.clock.lines[l] → r.state ≠ .off → r.impulse = none →
    exec (.lineOff c) s = .next ((s.noted { s with clock := { s.clock with lines := put s.clock.lines l { r with
      state := .off, offRequested := false, spacing := .stopped } } }).answered c.port codeLineOff payload
        ⟨.done, []⟩)) ∧
  (∀ (c : Chain) (k : Nat) (f : ChainFrame) (i : Fin 12) (s : State), s.operating →
    s.links[c].state = .answerWait k f → k = i.val + 1 → k < s.links[c].rowCount →
    s.links[c].modules[i].absentRun = 2 →
    ∃ t : State, exec (.answerWindowExpiry c) s = .next t ∧
      t.ports = ((s.noted (s.setLink c { s.links[c] with fault := true })).raiseRouted (.chainFault c k)).ports) ∧
  (∀ (p : Port) (s : State), s.commanded p codeReadEvent [] →
    ((s.port p).events = [] →
      exec (.readEvent p) s = .next (s.answered p codeReadEvent [] ⟨.done, [0, 0]⟩)) ∧
    (∀ e rest, (s.port p).events = e :: rest →
      exec (.readEvent p) s = .next ((s.setPort p { s.port p with events := rest, attention := !rest.isEmpty }).answered
        p codeReadEvent [] ⟨.done, [byte e.code, byte rest.length] ++ e.detail⟩)) ∧
    (s.eventsAscending → ∀ e ∈ (s.port p).events, (∀ x ∈ (s.port p).events, e.code ≤ x.code) →
      ∃ rest, (s.port p).events = e :: rest ∧ rest = (s.port p).events.filter (fun x => decide (x.code ≠ e.code)) ∧
        rest.length + 1 = (s.port p).events.length ∧
        exec (.readEvent p) s = .next ((s.setPort p { s.port p with events := rest, attention := !rest.isEmpty }).answered
          p codeReadEvent [] ⟨.done, [byte e.code, byte rest.length] ++ e.detail⟩))) ∧
  (∀ (c : Ctrl) (payload : List Byte) (mask : BitVec 18) (s : State), s.commanded c.port codeSetEventEnable payload →
    parseEnables payload = some mask →
    ∃ (en : BitVec 35) (evs : List Event), exec (.setEventEnable c) s = .next ((s.setPort c.port { s.port c.port with
        enables := en, events := evs, attention := !evs.isEmpty }).answered c.port codeSetEventEnable payload ⟨.done, []⟩) ∧
      (∀ n, n < 18 → en.getLsbD (n + 1) = mask.getLsbD n) ∧
      (∀ n, n = 0 ∨ 19 ≤ n → en.getLsbD n = (s.port c.port).enables.getLsbD n) ∧
      evs = (s.port c.port).events.filter fun e => en.getLsbD e.code) ∧
  (∀ (c : Ctrl) (payload : List Byte) (w : Watch) (s : State), s.commanded c.port codePostWatch payload →
    parseWatch payload = some w →
    (w.mask = 0 → exec (.postWatch c) s = .next ((s.setPort c.port { s.port c.port with watch := none }).answered
      c.port codePostWatch payload ⟨.done, []⟩)) ∧
    (w.mask ≠ 0 → (∀ i, i < 11 → w.mask.getLsbD i = true → w.values[i]? = (statusVector s)[i]?) →
      exec (.postWatch c) s = .next ((s.setPort c.port { s.port c.port with watch := some w }).answered
        c.port codePostWatch payload ⟨.done, []⟩)) ∧
    ((∃ i, i < 11 ∧ w.mask.getLsbD i = true ∧ w.values[i]? ≠ (statusVector s)[i]?) →
      ∃ (t : State) (items : BitVec 16), exec (.postWatch c) s = .next t ∧ (t.port c.port).watch = none ∧
        t = s.setPort c.port (t.port c.port) ∧
        t.repliedWith c.port codePostWatch payload ⟨.done, []⟩ ∧
        ((s.port c.port).enables.getLsbD 17 = true →
          Event.watchFired items (statusVector s) ∈ (t.port c.port).events) ∧
        (∀ i, i < 11 → items.getLsbD i =
          (w.mask.getLsbD i && decide (w.values[i]? ≠ (statusVector s)[i]?)))))
end

