-- ==== Sys2Proof/Laws/State.lean ====
section
/-! SUPPORT. What each update of the state leaves as it was: one lemma per field, so that no proof unfolds a record
update. -/

namespace Sys2Proof.Machine

-- One proof at a time: proofs elaborated side by side, each waiting for the kernel, take a thread each.
set_option Elab.async false

/-- Two states whose fields agree are equal. -/
theorem State.eq_of_fields {s t : State} (pending : s.pending = t.pending) (power : s.power = t.power)
    (ident : s.ident = t.ident) (settings : s.settings = t.settings) (stored : s.stored = t.stored)
    (retention : s.retention = t.retention) (ports : s.ports = t.ports) (arbiter : s.arbiter = t.arbiter)
    (time : s.time = t.time) (table : s.table = t.table) (store : s.store = t.store)
    (composer : s.composer = t.composer) (links : s.links = t.links) (cues : s.cues = t.cues)
    (clock : s.clock = t.clock) : s = t := by
  cases s; cases t; simp_all

/-! ### Ports -/

@[simp] theorem State.port_setPort (s : State) (p : Port) (x : PortState) : (s.setPort p x).port p = x := by
  cases p <;> rfl

theorem State.port_setPort_ne (s : State) {p q : Port} (x : PortState) (h : q ≠ p) :
    (s.setPort p x).port q = s.port q := by
  cases p <;> cases q <;> first | rfl | exact absurd rfl h

@[simp] theorem State.setPort_setPort (s : State) (p : Port) (x y : PortState) :
    (s.setPort p x).setPort p y = s.setPort p y := by
  cases p <;> rfl

@[simp] theorem State.setPort_port (s : State) (p : Port) : s.setPort p (s.port p) = s := by
  cases p <;> rfl

@[simp] theorem State.setPort_pending (s : State) (p : Port) (x : PortState) : (s.setPort p x).pending = s.pending := by
  cases p <;> rfl
@[simp] theorem State.setPort_power (s : State) (p : Port) (x : PortState) : (s.setPort p x).power = s.power := by
  cases p <;> rfl
@[simp] theorem State.setPort_ident (s : State) (p : Port) (x : PortState) : (s.setPort p x).ident = s.ident := by
  cases p <;> rfl
@[simp] theorem State.setPort_settings (s : State) (p : Port) (x : PortState) : (s.setPort p x).settings = s.settings := by
  cases p <;> rfl
@[simp] theorem State.setPort_stored (s : State) (p : Port) (x : PortState) : (s.setPort p x).stored = s.stored := by
  cases p <;> rfl
@[simp] theorem State.setPort_retention (s : State) (p : Port) (x : PortState) : (s.setPort p x).retention = s.retention := by
  cases p <;> rfl
@[simp] theorem State.setPort_arbiter (s : State) (p : Port) (x : PortState) : (s.setPort p x).arbiter = s.arbiter := by
  cases p <;> rfl
@[simp] theorem State.setPort_time (s : State) (p : Port) (x : PortState) : (s.setPort p x).time = s.time := by
  cases p <;> rfl
@[simp] theorem State.setPort_table (s : State) (p : Port) (x : PortState) : (s.setPort p x).table = s.table := by
  cases p <;> rfl
@[simp] theorem State.setPort_store (s : State) (p : Port) (x : PortState) : (s.setPort p x).store = s.store := by
  cases p <;> rfl
@[simp] theorem State.setPort_composer (s : State) (p : Port) (x : PortState) : (s.setPort p x).composer = s.composer := by
  cases p <;> rfl
@[simp] theorem State.setPort_links (s : State) (p : Port) (x : PortState) : (s.setPort p x).links = s.links := by
  cases p <;> rfl
@[simp] theorem State.setPort_cues (s : State) (p : Port) (x : PortState) : (s.setPort p x).cues = s.cues := by
  cases p <;> rfl
@[simp] theorem State.setPort_clock (s : State) (p : Port) (x : PortState) : (s.setPort p x).clock = s.clock := by
  cases p <;> rfl
@[simp] theorem State.setService_pending (s : State) (p : Port) (v : Service) : (s.setService p v).pending = s.pending := by
  simp [State.setService]
@[simp] theorem State.setService_power (s : State) (p : Port) (v : Service) : (s.setService p v).power = s.power := by
  simp [State.setService]
@[simp] theorem State.setService_ident (s : State) (p : Port) (v : Service) : (s.setService p v).ident = s.ident := by
  simp [State.setService]
@[simp] theorem State.setService_settings (s : State) (p : Port) (v : Service) : (s.setService p v).settings = s.settings := by
  simp [State.setService]
@[simp] theorem State.setService_stored (s : State) (p : Port) (v : Service) : (s.setService p v).stored = s.stored := by
  simp [State.setService]
@[simp] theorem State.setService_retention (s : State) (p : Port) (v : Service) : (s.setService p v).retention = s.retention := by
  simp [State.setService]
@[simp] theorem State.setService_arbiter (s : State) (p : Port) (v : Service) : (s.setService p v).arbiter = s.arbiter := by
  simp [State.setService]
@[simp] theorem State.setService_time (s : State) (p : Port) (v : Service) : (s.setService p v).time = s.time := by
  simp [State.setService]
@[simp] theorem State.setService_table (s : State) (p : Port) (v : Service) : (s.setService p v).table = s.table := by
  simp [State.setService]
@[simp] theorem State.setService_store (s : State) (p : Port) (v : Service) : (s.setService p v).store = s.store := by
  simp [State.setService]
@[simp] theorem State.setService_composer (s : State) (p : Port) (v : Service) : (s.setService p v).composer = s.composer := by
  simp [State.setService]
@[simp] theorem State.setService_links (s : State) (p : Port) (v : Service) : (s.setService p v).links = s.links := by
  simp [State.setService]
@[simp] theorem State.setService_cues (s : State) (p : Port) (v : Service) : (s.setService p v).cues = s.cues := by
  simp [State.setService]
@[simp] theorem State.setService_clock (s : State) (p : Port) (v : Service) : (s.setService p v).clock = s.clock := by
  simp [State.setService]

@[simp] theorem State.setService_service (s : State) (p : Port) (v : Service) :
    ((s.setService p v).port p).service = v := by
  simp [State.setService]

@[simp] theorem State.setService_setService (s : State) (p : Port) (v w : Service) :
    (s.setService p v).setService p w = s.setService p w := by
  simp [State.setService]

@[simp] theorem State.setReceiver_pending (s : State) (p : Port) (r : Receiver) : (s.setReceiver p r).pending = s.pending := by
  simp [State.setReceiver]
@[simp] theorem State.setReceiver_power (s : State) (p : Port) (r : Receiver) : (s.setReceiver p r).power = s.power := by
  simp [State.setReceiver]
@[simp] theorem State.setReceiver_ident (s : State) (p : Port) (r : Receiver) : (s.setReceiver p r).ident = s.ident := by
  simp [State.setReceiver]
@[simp] theorem State.setReceiver_settings (s : State) (p : Port) (r : Receiver) : (s.setReceiver p r).settings = s.settings := by
  simp [State.setReceiver]
@[simp] theorem State.setReceiver_stored (s : State) (p : Port) (r : Receiver) : (s.setReceiver p r).stored = s.stored := by
  simp [State.setReceiver]
@[simp] theorem State.setReceiver_retention (s : State) (p : Port) (r : Receiver) : (s.setReceiver p r).retention = s.retention := by
  simp [State.setReceiver]
@[simp] theorem State.setReceiver_arbiter (s : State) (p : Port) (r : Receiver) : (s.setReceiver p r).arbiter = s.arbiter := by
  simp [State.setReceiver]
@[simp] theorem State.setReceiver_time (s : State) (p : Port) (r : Receiver) : (s.setReceiver p r).time = s.time := by
  simp [State.setReceiver]
@[simp] theorem State.setReceiver_table (s : State) (p : Port) (r : Receiver) : (s.setReceiver p r).table = s.table := by
  simp [State.setReceiver]
@[simp] theorem State.setReceiver_store (s : State) (p : Port) (r : Receiver) : (s.setReceiver p r).store = s.store := by
  simp [State.setReceiver]
@[simp] theorem State.setReceiver_composer (s : State) (p : Port) (r : Receiver) : (s.setReceiver p r).composer = s.composer := by
  simp [State.setReceiver]
@[simp] theorem State.setReceiver_links (s : State) (p : Port) (r : Receiver) : (s.setReceiver p r).links = s.links := by
  simp [State.setReceiver]
@[simp] theorem State.setReceiver_cues (s : State) (p : Port) (r : Receiver) : (s.setReceiver p r).cues = s.cues := by
  simp [State.setReceiver]
@[simp] theorem State.setReceiver_clock (s : State) (p : Port) (r : Receiver) : (s.setReceiver p r).clock = s.clock := by
  simp [State.setReceiver]

/-! ### Staging buffers -/

@[simp] theorem State.staging_setStaging (s : State) (c : Ctrl) (b : Staging) : (s.setStaging c b).staging c = b := by
  cases c <;> rfl

theorem State.staging_setStaging_ne (s : State) {c d : Ctrl} (b : Staging) (h : d ≠ c) :
    (s.setStaging c b).staging d = s.staging d := by
  cases c <;> cases d <;> first | rfl | exact absurd rfl h

@[simp] theorem State.setStaging_cells (s : State) (c : Ctrl) (b : Staging) :
    (s.setStaging c b).store.cells = s.store.cells := by
  cases c <;> rfl

@[simp] theorem State.setStaging_failing (s : State) (c : Ctrl) (b : Staging) :
    (s.setStaging c b).store.failing = s.store.failing := by
  cases c <;> rfl

@[simp] theorem State.setStaging_engine (s : State) (c : Ctrl) (b : Staging) :
    (s.setStaging c b).store.engine = s.store.engine := by
  cases c <;> rfl

@[simp] theorem State.setStaging_pending (s : State) (c : Ctrl) (b : Staging) : (s.setStaging c b).pending = s.pending := by
  cases c <;> rfl
@[simp] theorem State.setStaging_power (s : State) (c : Ctrl) (b : Staging) : (s.setStaging c b).power = s.power := by
  cases c <;> rfl
@[simp] theorem State.setStaging_ident (s : State) (c : Ctrl) (b : Staging) : (s.setStaging c b).ident = s.ident := by
  cases c <;> rfl
@[simp] theorem State.setStaging_settings (s : State) (c : Ctrl) (b : Staging) : (s.setStaging c b).settings = s.settings := by
  cases c <;> rfl
@[simp] theorem State.setStaging_stored (s : State) (c : Ctrl) (b : Staging) : (s.setStaging c b).stored = s.stored := by
  cases c <;> rfl
@[simp] theorem State.setStaging_retention (s : State) (c : Ctrl) (b : Staging) : (s.setStaging c b).retention = s.retention := by
  cases c <;> rfl
@[simp] theorem State.setStaging_ports (s : State) (c : Ctrl) (b : Staging) : (s.setStaging c b).ports = s.ports := by
  cases c <;> rfl
@[simp] theorem State.setStaging_arbiter (s : State) (c : Ctrl) (b : Staging) : (s.setStaging c b).arbiter = s.arbiter := by
  cases c <;> rfl
@[simp] theorem State.setStaging_time (s : State) (c : Ctrl) (b : Staging) : (s.setStaging c b).time = s.time := by
  cases c <;> rfl
@[simp] theorem State.setStaging_table (s : State) (c : Ctrl) (b : Staging) : (s.setStaging c b).table = s.table := by
  cases c <;> rfl
@[simp] theorem State.setStaging_composer (s : State) (c : Ctrl) (b : Staging) : (s.setStaging c b).composer = s.composer := by
  cases c <;> rfl
@[simp] theorem State.setStaging_links (s : State) (c : Ctrl) (b : Staging) : (s.setStaging c b).links = s.links := by
  cases c <;> rfl
@[simp] theorem State.setStaging_cues (s : State) (c : Ctrl) (b : Staging) : (s.setStaging c b).cues = s.cues := by
  cases c <;> rfl
@[simp] theorem State.setStaging_clock (s : State) (c : Ctrl) (b : Staging) : (s.setStaging c b).clock = s.clock := by
  cases c <;> rfl

/-! ### The composer's views and the links -/

@[simp] theorem State.setView_pending (s : State) (k : Chain) (v : ChainView) : (s.setView k v).pending = s.pending := rfl
@[simp] theorem State.setView_power (s : State) (k : Chain) (v : ChainView) : (s.setView k v).power = s.power := rfl
@[simp] theorem State.setView_ident (s : State) (k : Chain) (v : ChainView) : (s.setView k v).ident = s.ident := rfl
@[simp] theorem State.setView_settings (s : State) (k : Chain) (v : ChainView) : (s.setView k v).settings = s.settings := rfl
@[simp] theorem State.setView_stored (s : State) (k : Chain) (v : ChainView) : (s.setView k v).stored = s.stored := rfl
@[simp] theorem State.setView_retention (s : State) (k : Chain) (v : ChainView) : (s.setView k v).retention = s.retention := rfl
@[simp] theorem State.setView_ports (s : State) (k : Chain) (v : ChainView) : (s.setView k v).ports = s.ports := rfl
@[simp] theorem State.setView_arbiter (s : State) (k : Chain) (v : ChainView) : (s.setView k v).arbiter = s.arbiter := rfl
@[simp] theorem State.setView_time (s : State) (k : Chain) (v : ChainView) : (s.setView k v).time = s.time := rfl
@[simp] theorem State.setView_table (s : State) (k : Chain) (v : ChainView) : (s.setView k v).table = s.table := rfl
@[simp] theorem State.setView_store (s : State) (k : Chain) (v : ChainView) : (s.setView k v).store = s.store := rfl
@[simp] theorem State.setView_links (s : State) (k : Chain) (v : ChainView) : (s.setView k v).links = s.links := rfl
@[simp] theorem State.setView_cues (s : State) (k : Chain) (v : ChainView) : (s.setView k v).cues = s.cues := rfl
@[simp] theorem State.setView_clock (s : State) (k : Chain) (v : ChainView) : (s.setView k v).clock = s.clock := rfl
@[simp] theorem State.setLink_pending (s : State) (k : Chain) (l : Link) : (s.setLink k l).pending = s.pending := rfl
@[simp] theorem State.setLink_power (s : State) (k : Chain) (l : Link) : (s.setLink k l).power = s.power := rfl
@[simp] theorem State.setLink_ident (s : State) (k : Chain) (l : Link) : (s.setLink k l).ident = s.ident := rfl
@[simp] theorem State.setLink_settings (s : State) (k : Chain) (l : Link) : (s.setLink k l).settings = s.settings := rfl
@[simp] theorem State.setLink_stored (s : State) (k : Chain) (l : Link) : (s.setLink k l).stored = s.stored := rfl
@[simp] theorem State.setLink_retention (s : State) (k : Chain) (l : Link) : (s.setLink k l).retention = s.retention := rfl
@[simp] theorem State.setLink_ports (s : State) (k : Chain) (l : Link) : (s.setLink k l).ports = s.ports := rfl
@[simp] theorem State.setLink_arbiter (s : State) (k : Chain) (l : Link) : (s.setLink k l).arbiter = s.arbiter := rfl
@[simp] theorem State.setLink_time (s : State) (k : Chain) (l : Link) : (s.setLink k l).time = s.time := rfl
@[simp] theorem State.setLink_table (s : State) (k : Chain) (l : Link) : (s.setLink k l).table = s.table := rfl
@[simp] theorem State.setLink_store (s : State) (k : Chain) (l : Link) : (s.setLink k l).store = s.store := rfl
@[simp] theorem State.setLink_composer (s : State) (k : Chain) (l : Link) : (s.setLink k l).composer = s.composer := rfl
@[simp] theorem State.setLink_cues (s : State) (k : Chain) (l : Link) : (s.setLink k l).cues = s.cues := rfl
@[simp] theorem State.setLink_clock (s : State) (k : Chain) (l : Link) : (s.setLink k l).clock = s.clock := rfl

/-! ### Paths between the blocks -/

@[simp] theorem State.hand_pending (s : State) (o : Option Ctrl) (ns : List Notification) : (s.hand o ns).pending = s.pending := rfl
@[simp] theorem State.hand_power (s : State) (o : Option Ctrl) (ns : List Notification) : (s.hand o ns).power = s.power := rfl
@[simp] theorem State.hand_ident (s : State) (o : Option Ctrl) (ns : List Notification) : (s.hand o ns).ident = s.ident := rfl
@[simp] theorem State.hand_settings (s : State) (o : Option Ctrl) (ns : List Notification) : (s.hand o ns).settings = s.settings := rfl
@[simp] theorem State.hand_stored (s : State) (o : Option Ctrl) (ns : List Notification) : (s.hand o ns).stored = s.stored := rfl
@[simp] theorem State.hand_retention (s : State) (o : Option Ctrl) (ns : List Notification) : (s.hand o ns).retention = s.retention := rfl
@[simp] theorem State.hand_ports (s : State) (o : Option Ctrl) (ns : List Notification) : (s.hand o ns).ports = s.ports := rfl
@[simp] theorem State.hand_arbiter (s : State) (o : Option Ctrl) (ns : List Notification) : (s.hand o ns).arbiter = s.arbiter := rfl
@[simp] theorem State.hand_time (s : State) (o : Option Ctrl) (ns : List Notification) : (s.hand o ns).time = s.time := rfl
@[simp] theorem State.hand_table (s : State) (o : Option Ctrl) (ns : List Notification) : (s.hand o ns).table = s.table := rfl
@[simp] theorem State.hand_store (s : State) (o : Option Ctrl) (ns : List Notification) : (s.hand o ns).store = s.store := rfl
@[simp] theorem State.hand_composer (s : State) (o : Option Ctrl) (ns : List Notification) : (s.hand o ns).composer = s.composer := rfl
@[simp] theorem State.hand_links (s : State) (o : Option Ctrl) (ns : List Notification) : (s.hand o ns).links = s.links := rfl
@[simp] theorem State.hand_clock (s : State) (o : Option Ctrl) (ns : List Notification) : (s.hand o ns).clock = s.clock := rfl
@[simp] theorem State.sendMinute_pending (s : State) (n : Nat) : (s.sendMinute n).pending = s.pending := rfl
@[simp] theorem State.sendMinute_power (s : State) (n : Nat) : (s.sendMinute n).power = s.power := rfl
@[simp] theorem State.sendMinute_ident (s : State) (n : Nat) : (s.sendMinute n).ident = s.ident := rfl
@[simp] theorem State.sendMinute_settings (s : State) (n : Nat) : (s.sendMinute n).settings = s.settings := rfl
@[simp] theorem State.sendMinute_stored (s : State) (n : Nat) : (s.sendMinute n).stored = s.stored := rfl
@[simp] theorem State.sendMinute_retention (s : State) (n : Nat) : (s.sendMinute n).retention = s.retention := rfl
@[simp] theorem State.sendMinute_ports (s : State) (n : Nat) : (s.sendMinute n).ports = s.ports := rfl
@[simp] theorem State.sendMinute_arbiter (s : State) (n : Nat) : (s.sendMinute n).arbiter = s.arbiter := rfl
@[simp] theorem State.sendMinute_time (s : State) (n : Nat) : (s.sendMinute n).time = s.time := rfl
@[simp] theorem State.sendMinute_store (s : State) (n : Nat) : (s.sendMinute n).store = s.store := rfl
@[simp] theorem State.sendMinute_links (s : State) (n : Nat) : (s.sendMinute n).links = s.links := rfl
@[simp] theorem State.beginRollover_pending (s : State) (ds : List Delivery) : (s.beginRollover ds).pending = s.pending := rfl
@[simp] theorem State.beginRollover_power (s : State) (ds : List Delivery) : (s.beginRollover ds).power = s.power := rfl
@[simp] theorem State.beginRollover_ident (s : State) (ds : List Delivery) : (s.beginRollover ds).ident = s.ident := rfl
@[simp] theorem State.beginRollover_settings (s : State) (ds : List Delivery) : (s.beginRollover ds).settings = s.settings := rfl
@[simp] theorem State.beginRollover_stored (s : State) (ds : List Delivery) : (s.beginRollover ds).stored = s.stored := rfl
@[simp] theorem State.beginRollover_retention (s : State) (ds : List Delivery) : (s.beginRollover ds).retention = s.retention := rfl
@[simp] theorem State.beginRollover_ports (s : State) (ds : List Delivery) : (s.beginRollover ds).ports = s.ports := rfl
@[simp] theorem State.beginRollover_arbiter (s : State) (ds : List Delivery) : (s.beginRollover ds).arbiter = s.arbiter := rfl
@[simp] theorem State.beginRollover_store (s : State) (ds : List Delivery) : (s.beginRollover ds).store = s.store := rfl
@[simp] theorem State.beginRollover_composer (s : State) (ds : List Delivery) : (s.beginRollover ds).composer = s.composer := rfl
@[simp] theorem State.beginRollover_links (s : State) (ds : List Delivery) : (s.beginRollover ds).links = s.links := rfl
@[simp] theorem State.beginRollover_cues (s : State) (ds : List Delivery) : (s.beginRollover ds).cues = s.cues := rfl
@[simp] theorem State.beginRollover_clock (s : State) (ds : List Delivery) : (s.beginRollover ds).clock = s.clock := rfl
@[simp] theorem State.withCueInbox_pending (s : State) (m : List CueMessage) : (s.withCueInbox m).pending = s.pending := rfl
@[simp] theorem State.withCueInbox_power (s : State) (m : List CueMessage) : (s.withCueInbox m).power = s.power := rfl
@[simp] theorem State.withCueInbox_ident (s : State) (m : List CueMessage) : (s.withCueInbox m).ident = s.ident := rfl
@[simp] theorem State.withCueInbox_settings (s : State) (m : List CueMessage) : (s.withCueInbox m).settings = s.settings := rfl
@[simp] theorem State.withCueInbox_stored (s : State) (m : List CueMessage) : (s.withCueInbox m).stored = s.stored := rfl
@[simp] theorem State.withCueInbox_retention (s : State) (m : List CueMessage) : (s.withCueInbox m).retention = s.retention := rfl
@[simp] theorem State.withCueInbox_ports (s : State) (m : List CueMessage) : (s.withCueInbox m).ports = s.ports := rfl
@[simp] theorem State.withCueInbox_arbiter (s : State) (m : List CueMessage) : (s.withCueInbox m).arbiter = s.arbiter := rfl
@[simp] theorem State.withCueInbox_time (s : State) (m : List CueMessage) : (s.withCueInbox m).time = s.time := rfl
@[simp] theorem State.withCueInbox_table (s : State) (m : List CueMessage) : (s.withCueInbox m).table = s.table := rfl
@[simp] theorem State.withCueInbox_store (s : State) (m : List CueMessage) : (s.withCueInbox m).store = s.store := rfl
@[simp] theorem State.withCueInbox_composer (s : State) (m : List CueMessage) : (s.withCueInbox m).composer = s.composer := rfl
@[simp] theorem State.withCueInbox_links (s : State) (m : List CueMessage) : (s.withCueInbox m).links = s.links := rfl
@[simp] theorem State.withCueInbox_clock (s : State) (m : List CueMessage) : (s.withCueInbox m).clock = s.clock := rfl

/-! ### The arbiter, the retention area and the playing position -/

@[simp] theorem State.endWait_pending (s : State) : (s.endWait).pending = s.pending := rfl
@[simp] theorem State.endWait_power (s : State) : (s.endWait).power = s.power := rfl
@[simp] theorem State.endWait_ident (s : State) : (s.endWait).ident = s.ident := rfl
@[simp] theorem State.endWait_settings (s : State) : (s.endWait).settings = s.settings := rfl
@[simp] theorem State.endWait_stored (s : State) : (s.endWait).stored = s.stored := rfl
@[simp] theorem State.endWait_retention (s : State) : (s.endWait).retention = s.retention := rfl
@[simp] theorem State.endWait_ports (s : State) : (s.endWait).ports = s.ports := rfl
@[simp] theorem State.endWait_time (s : State) : (s.endWait).time = s.time := rfl
@[simp] theorem State.endWait_table (s : State) : (s.endWait).table = s.table := rfl
@[simp] theorem State.endWait_store (s : State) : (s.endWait).store = s.store := rfl
@[simp] theorem State.endWait_composer (s : State) : (s.endWait).composer = s.composer := rfl
@[simp] theorem State.endWait_links (s : State) : (s.endWait).links = s.links := rfl
@[simp] theorem State.endWait_cues (s : State) : (s.endWait).cues = s.cues := rfl
@[simp] theorem State.endWait_clock (s : State) : (s.endWait).clock = s.clock := rfl
@[simp] theorem State.retain_pending (s : State) (l : Line) (e : RetentionEntry) : (s.retain l e).pending = s.pending := rfl
@[simp] theorem State.retain_power (s : State) (l : Line) (e : RetentionEntry) : (s.retain l e).power = s.power := rfl
@[simp] theorem State.retain_ident (s : State) (l : Line) (e : RetentionEntry) : (s.retain l e).ident = s.ident := rfl
@[simp] theorem State.retain_settings (s : State) (l : Line) (e : RetentionEntry) : (s.retain l e).settings = s.settings := rfl
@[simp] theorem State.retain_stored (s : State) (l : Line) (e : RetentionEntry) : (s.retain l e).stored = s.stored := rfl
@[simp] theorem State.retain_ports (s : State) (l : Line) (e : RetentionEntry) : (s.retain l e).ports = s.ports := rfl
@[simp] theorem State.retain_arbiter (s : State) (l : Line) (e : RetentionEntry) : (s.retain l e).arbiter = s.arbiter := rfl
@[simp] theorem State.retain_time (s : State) (l : Line) (e : RetentionEntry) : (s.retain l e).time = s.time := rfl
@[simp] theorem State.retain_table (s : State) (l : Line) (e : RetentionEntry) : (s.retain l e).table = s.table := rfl
@[simp] theorem State.retain_store (s : State) (l : Line) (e : RetentionEntry) : (s.retain l e).store = s.store := rfl
@[simp] theorem State.retain_composer (s : State) (l : Line) (e : RetentionEntry) : (s.retain l e).composer = s.composer := rfl
@[simp] theorem State.retain_links (s : State) (l : Line) (e : RetentionEntry) : (s.retain l e).links = s.links := rfl
@[simp] theorem State.retain_cues (s : State) (l : Line) (e : RetentionEntry) : (s.retain l e).cues = s.cues := rfl
@[simp] theorem State.retain_clock (s : State) (l : Line) (e : RetentionEntry) : (s.retain l e).clock = s.clock := rfl
@[simp] theorem State.endPlaying_pending (s : State) : (s.endPlaying).pending = s.pending := rfl
@[simp] theorem State.endPlaying_power (s : State) : (s.endPlaying).power = s.power := rfl
@[simp] theorem State.endPlaying_ident (s : State) : (s.endPlaying).ident = s.ident := rfl
@[simp] theorem State.endPlaying_settings (s : State) : (s.endPlaying).settings = s.settings := rfl
@[simp] theorem State.endPlaying_stored (s : State) : (s.endPlaying).stored = s.stored := rfl
@[simp] theorem State.endPlaying_retention (s : State) : (s.endPlaying).retention = s.retention := rfl
@[simp] theorem State.endPlaying_ports (s : State) : (s.endPlaying).ports = s.ports := rfl
@[simp] theorem State.endPlaying_arbiter (s : State) : (s.endPlaying).arbiter = s.arbiter := rfl
@[simp] theorem State.endPlaying_time (s : State) : (s.endPlaying).time = s.time := rfl
@[simp] theorem State.endPlaying_table (s : State) : (s.endPlaying).table = s.table := rfl
@[simp] theorem State.endPlaying_store (s : State) : (s.endPlaying).store = s.store := rfl
@[simp] theorem State.endPlaying_composer (s : State) : (s.endPlaying).composer = s.composer := rfl
@[simp] theorem State.endPlaying_links (s : State) : (s.endPlaying).links = s.links := rfl
@[simp] theorem State.endPlaying_clock (s : State) : (s.endPlaying).clock = s.clock := rfl

/-! ### The notice cursor of a chain -/

@[simp] theorem ChainView.cursorAt_plan (v : ChainView) (t : Timer) (x : NoticeItem) (n : Nat) :
    (v.cursorAt t x n).plan = v.plan := rfl
@[simp] theorem ChainView.cursorAt_running (v : ChainView) (t : Timer) (x : NoticeItem) (n : Nat) :
    (v.cursorAt t x n).running = v.running := rfl
@[simp] theorem ChainView.cursorAt_pages (v : ChainView) (t : Timer) (x : NoticeItem) (n : Nat) :
    (v.cursorAt t x n).pages = v.pages := rfl
@[simp] theorem ChainView.cursorAt_page (v : ChainView) (t : Timer) (x : NoticeItem) (n : Nat) :
    (v.cursorAt t x n).page = v.page := rfl
@[simp] theorem ChainView.cursorAt_pageTimer (v : ChainView) (t : Timer) (x : NoticeItem) (n : Nat) :
    (v.cursorAt t x n).pageTimer = v.pageTimer := rfl
@[simp] theorem ChainView.cursorAt_nextRow (v : ChainView) (t : Timer) (x : NoticeItem) (n : Nat) :
    (v.cursorAt t x n).nextRow = v.nextRow := rfl
@[simp] theorem ChainView.cursorAt_cursor (v : ChainView) (t : Timer) (x : NoticeItem) (n : Nat) :
    (v.cursorAt t x n).cursor = some ⟨x, n⟩ := rfl
@[simp] theorem ChainView.cursorAt_partTimer (v : ChainView) (t : Timer) (x : NoticeItem) (n : Nat) :
    (v.cursorAt t x n).partTimer = t := rfl
@[simp] theorem ChainView.cursorAt_partOwed (v : ChainView) (t : Timer) (x : NoticeItem) (n : Nat) :
    (v.cursorAt t x n).partOwed = false := rfl
@[simp] theorem ChainView.withoutCursor_plan (v : ChainView) : v.withoutCursor.plan = v.plan := rfl
@[simp] theorem ChainView.withoutCursor_running (v : ChainView) : v.withoutCursor.running = v.running := rfl
@[simp] theorem ChainView.withoutCursor_pages (v : ChainView) : v.withoutCursor.pages = v.pages := rfl
@[simp] theorem ChainView.withoutCursor_page (v : ChainView) : v.withoutCursor.page = v.page := rfl
@[simp] theorem ChainView.withoutCursor_pageTimer (v : ChainView) : v.withoutCursor.pageTimer = v.pageTimer := rfl
@[simp] theorem ChainView.withoutCursor_nextRow (v : ChainView) : v.withoutCursor.nextRow = v.nextRow := rfl
@[simp] theorem ChainView.withoutCursor_cursor (v : ChainView) : v.withoutCursor.cursor = none := rfl
@[simp] theorem ChainView.withoutCursor_partTimer (v : ChainView) : v.withoutCursor.partTimer = .stopped := rfl
@[simp] theorem ChainView.withoutCursor_partOwed (v : ChainView) : v.withoutCursor.partOwed = false := rfl

end Sys2Proof.Machine
end

