-- ==== Sys2Proof/Laws/Events.lean ====
section
/-! SUPPORT. Raising events and offering changes to the watches change the ports alone, and of a port only its
pending-event set, its attention line and, for a watch that fires, its watch. -/

namespace Sys2Proof.Machine

-- One proof at a time: proofs elaborated side by side, each waiting for the kernel, take a thread each.
set_option Elab.async false

/-- Entering an event into a set keeps the set non-empty. -/
theorem insertEvent_ne_nil (e : Event) (es : List Event) : insertEvent e es ≠ [] := by
  cases es with
  | nil => simp [insertEvent]
  | cons x xs =>
    unfold insertEvent
    split
    · simp
    · split <;> simp

/-- An event taken into a set makes the attention line ASSERTED (R177). -/
theorem PortState.enter_attention (ps : PortState) (e : Event) (h : ps.enables.getLsbD e.code = true) :
    (ps.enter e).attention = true := by
  have := insertEvent_ne_nil e ps.events
  simp [PortState.enter, h, PortState.withEvents, this]

@[simp] theorem PortState.enter_service (ps : PortState) (e : Event) : (ps.enter e).service = ps.service := by
  unfold PortState.enter; split <;> rfl

@[simp] theorem PortState.enter_enables (ps : PortState) (e : Event) : (ps.enter e).enables = ps.enables := by
  unfold PortState.enter; split <;> rfl

@[simp] theorem PortState.enter_watch (ps : PortState) (e : Event) : (ps.enter e).watch = ps.watch := by
  unfold PortState.enter; split <;> rfl

@[simp] theorem PortState.enter_receiver (ps : PortState) (e : Event) : (ps.enter e).receiver = ps.receiver := by
  unfold PortState.enter; split <;> rfl

@[simp] theorem PortState.enter_badFrames (ps : PortState) (e : Event) : (ps.enter e).badFrames = ps.badFrames := by
  unfold PortState.enter; split <;> rfl

@[simp] theorem PortState.enter_overruns (ps : PortState) (e : Event) : (ps.enter e).overruns = ps.overruns := by
  unfold PortState.enter; split <;> rfl

@[simp] theorem State.raise_pending (s : State) (p : Port) (e : Event) : (s.raise p e).pending = s.pending := by
  simp [State.raise]
@[simp] theorem State.raise_power (s : State) (p : Port) (e : Event) : (s.raise p e).power = s.power := by
  simp [State.raise]
@[simp] theorem State.raise_ident (s : State) (p : Port) (e : Event) : (s.raise p e).ident = s.ident := by
  simp [State.raise]
@[simp] theorem State.raise_settings (s : State) (p : Port) (e : Event) : (s.raise p e).settings = s.settings := by
  simp [State.raise]
@[simp] theorem State.raise_stored (s : State) (p : Port) (e : Event) : (s.raise p e).stored = s.stored := by
  simp [State.raise]
@[simp] theorem State.raise_retention (s : State) (p : Port) (e : Event) : (s.raise p e).retention = s.retention := by
  simp [State.raise]
@[simp] theorem State.raise_arbiter (s : State) (p : Port) (e : Event) : (s.raise p e).arbiter = s.arbiter := by
  simp [State.raise]
@[simp] theorem State.raise_time (s : State) (p : Port) (e : Event) : (s.raise p e).time = s.time := by
  simp [State.raise]
@[simp] theorem State.raise_table (s : State) (p : Port) (e : Event) : (s.raise p e).table = s.table := by
  simp [State.raise]
@[simp] theorem State.raise_store (s : State) (p : Port) (e : Event) : (s.raise p e).store = s.store := by
  simp [State.raise]
@[simp] theorem State.raise_composer (s : State) (p : Port) (e : Event) : (s.raise p e).composer = s.composer := by
  simp [State.raise]
@[simp] theorem State.raise_links (s : State) (p : Port) (e : Event) : (s.raise p e).links = s.links := by
  simp [State.raise]
@[simp] theorem State.raise_cues (s : State) (p : Port) (e : Event) : (s.raise p e).cues = s.cues := by
  simp [State.raise]
@[simp] theorem State.raise_clock (s : State) (p : Port) (e : Event) : (s.raise p e).clock = s.clock := by
  simp [State.raise]
@[simp] theorem State.raiseBoth_pending (s : State) (e : Event) : (s.raiseBoth e).pending = s.pending := by
  simp [State.raiseBoth]
@[simp] theorem State.raiseBoth_power (s : State) (e : Event) : (s.raiseBoth e).power = s.power := by
  simp [State.raiseBoth]
@[simp] theorem State.raiseBoth_ident (s : State) (e : Event) : (s.raiseBoth e).ident = s.ident := by
  simp [State.raiseBoth]
@[simp] theorem State.raiseBoth_settings (s : State) (e : Event) : (s.raiseBoth e).settings = s.settings := by
  simp [State.raiseBoth]
@[simp] theorem State.raiseBoth_stored (s : State) (e : Event) : (s.raiseBoth e).stored = s.stored := by
  simp [State.raiseBoth]
@[simp] theorem State.raiseBoth_retention (s : State) (e : Event) : (s.raiseBoth e).retention = s.retention := by
  simp [State.raiseBoth]
@[simp] theorem State.raiseBoth_arbiter (s : State) (e : Event) : (s.raiseBoth e).arbiter = s.arbiter := by
  simp [State.raiseBoth]
@[simp] theorem State.raiseBoth_time (s : State) (e : Event) : (s.raiseBoth e).time = s.time := by
  simp [State.raiseBoth]
@[simp] theorem State.raiseBoth_table (s : State) (e : Event) : (s.raiseBoth e).table = s.table := by
  simp [State.raiseBoth]
@[simp] theorem State.raiseBoth_store (s : State) (e : Event) : (s.raiseBoth e).store = s.store := by
  simp [State.raiseBoth]
@[simp] theorem State.raiseBoth_composer (s : State) (e : Event) : (s.raiseBoth e).composer = s.composer := by
  simp [State.raiseBoth]
@[simp] theorem State.raiseBoth_links (s : State) (e : Event) : (s.raiseBoth e).links = s.links := by
  simp [State.raiseBoth]
@[simp] theorem State.raiseBoth_cues (s : State) (e : Event) : (s.raiseBoth e).cues = s.cues := by
  simp [State.raiseBoth]
@[simp] theorem State.raiseBoth_clock (s : State) (e : Event) : (s.raiseBoth e).clock = s.clock := by
  simp [State.raiseBoth]
@[simp] theorem State.raiseRouted_pending (s : State) (e : Event) : (s.raiseRouted e).pending = s.pending := by
  unfold State.raiseRouted; split <;> (try split) <;> simp
@[simp] theorem State.raiseRouted_power (s : State) (e : Event) : (s.raiseRouted e).power = s.power := by
  unfold State.raiseRouted; split <;> (try split) <;> simp
@[simp] theorem State.raiseRouted_ident (s : State) (e : Event) : (s.raiseRouted e).ident = s.ident := by
  unfold State.raiseRouted; split <;> (try split) <;> simp
@[simp] theorem State.raiseRouted_settings (s : State) (e : Event) : (s.raiseRouted e).settings = s.settings := by
  unfold State.raiseRouted; split <;> (try split) <;> simp
@[simp] theorem State.raiseRouted_stored (s : State) (e : Event) : (s.raiseRouted e).stored = s.stored := by
  unfold State.raiseRouted; split <;> (try split) <;> simp
@[simp] theorem State.raiseRouted_retention (s : State) (e : Event) : (s.raiseRouted e).retention = s.retention := by
  unfold State.raiseRouted; split <;> (try split) <;> simp
@[simp] theorem State.raiseRouted_arbiter (s : State) (e : Event) : (s.raiseRouted e).arbiter = s.arbiter := by
  unfold State.raiseRouted; split <;> (try split) <;> simp
@[simp] theorem State.raiseRouted_time (s : State) (e : Event) : (s.raiseRouted e).time = s.time := by
  unfold State.raiseRouted; split <;> (try split) <;> simp
@[simp] theorem State.raiseRouted_table (s : State) (e : Event) : (s.raiseRouted e).table = s.table := by
  unfold State.raiseRouted; split <;> (try split) <;> simp
@[simp] theorem State.raiseRouted_store (s : State) (e : Event) : (s.raiseRouted e).store = s.store := by
  unfold State.raiseRouted; split <;> (try split) <;> simp
@[simp] theorem State.raiseRouted_composer (s : State) (e : Event) : (s.raiseRouted e).composer = s.composer := by
  unfold State.raiseRouted; split <;> (try split) <;> simp
@[simp] theorem State.raiseRouted_links (s : State) (e : Event) : (s.raiseRouted e).links = s.links := by
  unfold State.raiseRouted; split <;> (try split) <;> simp
@[simp] theorem State.raiseRouted_cues (s : State) (e : Event) : (s.raiseRouted e).cues = s.cues := by
  unfold State.raiseRouted; split <;> (try split) <;> simp
@[simp] theorem State.raiseRouted_clock (s : State) (e : Event) : (s.raiseRouted e).clock = s.clock := by
  unfold State.raiseRouted; split <;> (try split) <;> simp
@[simp] theorem State.raiseAll_pending (s : State) (es : List Event) : (s.raiseAll es).pending = s.pending := by
  induction es generalizing s with
  | nil => rfl
  | cons e es ih => simp [State.raiseAll, ih]
@[simp] theorem State.raiseAll_power (s : State) (es : List Event) : (s.raiseAll es).power = s.power := by
  induction es generalizing s with
  | nil => rfl
  | cons e es ih => simp [State.raiseAll, ih]
@[simp] theorem State.raiseAll_ident (s : State) (es : List Event) : (s.raiseAll es).ident = s.ident := by
  induction es generalizing s with
  | nil => rfl
  | cons e es ih => simp [State.raiseAll, ih]
@[simp] theorem State.raiseAll_settings (s : State) (es : List Event) : (s.raiseAll es).settings = s.settings := by
  induction es generalizing s with
  | nil => rfl
  | cons e es ih => simp [State.raiseAll, ih]
@[simp] theorem State.raiseAll_stored (s : State) (es : List Event) : (s.raiseAll es).stored = s.stored := by
  induction es generalizing s with
  | nil => rfl
  | cons e es ih => simp [State.raiseAll, ih]
@[simp] theorem State.raiseAll_retention (s : State) (es : List Event) : (s.raiseAll es).retention = s.retention := by
  induction es generalizing s with
  | nil => rfl
  | cons e es ih => simp [State.raiseAll, ih]
@[simp] theorem State.raiseAll_arbiter (s : State) (es : List Event) : (s.raiseAll es).arbiter = s.arbiter := by
  induction es generalizing s with
  | nil => rfl
  | cons e es ih => simp [State.raiseAll, ih]
@[simp] theorem State.raiseAll_time (s : State) (es : List Event) : (s.raiseAll es).time = s.time := by
  induction es generalizing s with
  | nil => rfl
  | cons e es ih => simp [State.raiseAll, ih]
@[simp] theorem State.raiseAll_table (s : State) (es : List Event) : (s.raiseAll es).table = s.table := by
  induction es generalizing s with
  | nil => rfl
  | cons e es ih => simp [State.raiseAll, ih]
@[simp] theorem State.raiseAll_store (s : State) (es : List Event) : (s.raiseAll es).store = s.store := by
  induction es generalizing s with
  | nil => rfl
  | cons e es ih => simp [State.raiseAll, ih]
@[simp] theorem State.raiseAll_composer (s : State) (es : List Event) : (s.raiseAll es).composer = s.composer := by
  induction es generalizing s with
  | nil => rfl
  | cons e es ih => simp [State.raiseAll, ih]
@[simp] theorem State.raiseAll_links (s : State) (es : List Event) : (s.raiseAll es).links = s.links := by
  induction es generalizing s with
  | nil => rfl
  | cons e es ih => simp [State.raiseAll, ih]
@[simp] theorem State.raiseAll_cues (s : State) (es : List Event) : (s.raiseAll es).cues = s.cues := by
  induction es generalizing s with
  | nil => rfl
  | cons e es ih => simp [State.raiseAll, ih]
@[simp] theorem State.raiseAll_clock (s : State) (es : List Event) : (s.raiseAll es).clock = s.clock := by
  induction es generalizing s with
  | nil => rfl
  | cons e es ih => simp [State.raiseAll, ih]
@[simp] theorem State.fireWatch_pending (s : State) (c : Ctrl) (m : BitVec 16) : (s.fireWatch c m).pending = s.pending := by
  simp [State.fireWatch]
@[simp] theorem State.fireWatch_power (s : State) (c : Ctrl) (m : BitVec 16) : (s.fireWatch c m).power = s.power := by
  simp [State.fireWatch]
@[simp] theorem State.fireWatch_ident (s : State) (c : Ctrl) (m : BitVec 16) : (s.fireWatch c m).ident = s.ident := by
  simp [State.fireWatch]
@[simp] theorem State.fireWatch_settings (s : State) (c : Ctrl) (m : BitVec 16) : (s.fireWatch c m).settings = s.settings := by
  simp [State.fireWatch]
@[simp] theorem State.fireWatch_stored (s : State) (c : Ctrl) (m : BitVec 16) : (s.fireWatch c m).stored = s.stored := by
  simp [State.fireWatch]
@[simp] theorem State.fireWatch_retention (s : State) (c : Ctrl) (m : BitVec 16) : (s.fireWatch c m).retention = s.retention := by
  simp [State.fireWatch]
@[simp] theorem State.fireWatch_arbiter (s : State) (c : Ctrl) (m : BitVec 16) : (s.fireWatch c m).arbiter = s.arbiter := by
  simp [State.fireWatch]
@[simp] theorem State.fireWatch_time (s : State) (c : Ctrl) (m : BitVec 16) : (s.fireWatch c m).time = s.time := by
  simp [State.fireWatch]
@[simp] theorem State.fireWatch_table (s : State) (c : Ctrl) (m : BitVec 16) : (s.fireWatch c m).table = s.table := by
  simp [State.fireWatch]
@[simp] theorem State.fireWatch_store (s : State) (c : Ctrl) (m : BitVec 16) : (s.fireWatch c m).store = s.store := by
  simp [State.fireWatch]
@[simp] theorem State.fireWatch_composer (s : State) (c : Ctrl) (m : BitVec 16) : (s.fireWatch c m).composer = s.composer := by
  simp [State.fireWatch]
@[simp] theorem State.fireWatch_links (s : State) (c : Ctrl) (m : BitVec 16) : (s.fireWatch c m).links = s.links := by
  simp [State.fireWatch]
@[simp] theorem State.fireWatch_cues (s : State) (c : Ctrl) (m : BitVec 16) : (s.fireWatch c m).cues = s.cues := by
  simp [State.fireWatch]
@[simp] theorem State.fireWatch_clock (s : State) (c : Ctrl) (m : BitVec 16) : (s.fireWatch c m).clock = s.clock := by
  simp [State.fireWatch]
@[simp] theorem State.offerTo_pending (c : Ctrl) (v : List Byte) (s : State) : (State.offerTo c v s).pending = s.pending := by
  unfold State.offerTo; split <;> (try split) <;> simp
@[simp] theorem State.offerTo_power (c : Ctrl) (v : List Byte) (s : State) : (State.offerTo c v s).power = s.power := by
  unfold State.offerTo; split <;> (try split) <;> simp
@[simp] theorem State.offerTo_ident (c : Ctrl) (v : List Byte) (s : State) : (State.offerTo c v s).ident = s.ident := by
  unfold State.offerTo; split <;> (try split) <;> simp
@[simp] theorem State.offerTo_settings (c : Ctrl) (v : List Byte) (s : State) : (State.offerTo c v s).settings = s.settings := by
  unfold State.offerTo; split <;> (try split) <;> simp
@[simp] theorem State.offerTo_stored (c : Ctrl) (v : List Byte) (s : State) : (State.offerTo c v s).stored = s.stored := by
  unfold State.offerTo; split <;> (try split) <;> simp
@[simp] theorem State.offerTo_retention (c : Ctrl) (v : List Byte) (s : State) : (State.offerTo c v s).retention = s.retention := by
  unfold State.offerTo; split <;> (try split) <;> simp
@[simp] theorem State.offerTo_arbiter (c : Ctrl) (v : List Byte) (s : State) : (State.offerTo c v s).arbiter = s.arbiter := by
  unfold State.offerTo; split <;> (try split) <;> simp
@[simp] theorem State.offerTo_time (c : Ctrl) (v : List Byte) (s : State) : (State.offerTo c v s).time = s.time := by
  unfold State.offerTo; split <;> (try split) <;> simp
@[simp] theorem State.offerTo_table (c : Ctrl) (v : List Byte) (s : State) : (State.offerTo c v s).table = s.table := by
  unfold State.offerTo; split <;> (try split) <;> simp
@[simp] theorem State.offerTo_store (c : Ctrl) (v : List Byte) (s : State) : (State.offerTo c v s).store = s.store := by
  unfold State.offerTo; split <;> (try split) <;> simp
@[simp] theorem State.offerTo_composer (c : Ctrl) (v : List Byte) (s : State) : (State.offerTo c v s).composer = s.composer := by
  unfold State.offerTo; split <;> (try split) <;> simp
@[simp] theorem State.offerTo_links (c : Ctrl) (v : List Byte) (s : State) : (State.offerTo c v s).links = s.links := by
  unfold State.offerTo; split <;> (try split) <;> simp
@[simp] theorem State.offerTo_cues (c : Ctrl) (v : List Byte) (s : State) : (State.offerTo c v s).cues = s.cues := by
  unfold State.offerTo; split <;> (try split) <;> simp
@[simp] theorem State.offerTo_clock (c : Ctrl) (v : List Byte) (s : State) : (State.offerTo c v s).clock = s.clock := by
  unfold State.offerTo; split <;> (try split) <;> simp
@[simp] theorem State.noted_pending (s t : State) : (s.noted t).pending = t.pending := by
  simp [State.noted]
@[simp] theorem State.noted_power (s t : State) : (s.noted t).power = t.power := by
  simp [State.noted]
@[simp] theorem State.noted_ident (s t : State) : (s.noted t).ident = t.ident := by
  simp [State.noted]
@[simp] theorem State.noted_settings (s t : State) : (s.noted t).settings = t.settings := by
  simp [State.noted]
@[simp] theorem State.noted_stored (s t : State) : (s.noted t).stored = t.stored := by
  simp [State.noted]
@[simp] theorem State.noted_retention (s t : State) : (s.noted t).retention = t.retention := by
  simp [State.noted]
@[simp] theorem State.noted_arbiter (s t : State) : (s.noted t).arbiter = t.arbiter := by
  simp [State.noted]
@[simp] theorem State.noted_time (s t : State) : (s.noted t).time = t.time := by
  simp [State.noted]
@[simp] theorem State.noted_table (s t : State) : (s.noted t).table = t.table := by
  simp [State.noted]
@[simp] theorem State.noted_store (s t : State) : (s.noted t).store = t.store := by
  simp [State.noted]
@[simp] theorem State.noted_composer (s t : State) : (s.noted t).composer = t.composer := by
  simp [State.noted]
@[simp] theorem State.noted_links (s t : State) : (s.noted t).links = t.links := by
  simp [State.noted]
@[simp] theorem State.noted_cues (s t : State) : (s.noted t).cues = t.cues := by
  simp [State.noted]
@[simp] theorem State.noted_clock (s t : State) : (s.noted t).clock = t.clock := by
  simp [State.noted]
@[simp] theorem State.answer_pending (s : State) (p : Port) (r : Reply) : (s.answer p r).pending = s.pending := by
  unfold State.answer; split <;> simp
@[simp] theorem State.answer_power (s : State) (p : Port) (r : Reply) : (s.answer p r).power = s.power := by
  unfold State.answer; split <;> simp
@[simp] theorem State.answer_ident (s : State) (p : Port) (r : Reply) : (s.answer p r).ident = s.ident := by
  unfold State.answer; split <;> simp
@[simp] theorem State.answer_settings (s : State) (p : Port) (r : Reply) : (s.answer p r).settings = s.settings := by
  unfold State.answer; split <;> simp
@[simp] theorem State.answer_stored (s : State) (p : Port) (r : Reply) : (s.answer p r).stored = s.stored := by
  unfold State.answer; split <;> simp
@[simp] theorem State.answer_retention (s : State) (p : Port) (r : Reply) : (s.answer p r).retention = s.retention := by
  unfold State.answer; split <;> simp
@[simp] theorem State.answer_arbiter (s : State) (p : Port) (r : Reply) : (s.answer p r).arbiter = s.arbiter := by
  unfold State.answer; split <;> simp
@[simp] theorem State.answer_time (s : State) (p : Port) (r : Reply) : (s.answer p r).time = s.time := by
  unfold State.answer; split <;> simp
@[simp] theorem State.answer_table (s : State) (p : Port) (r : Reply) : (s.answer p r).table = s.table := by
  unfold State.answer; split <;> simp
@[simp] theorem State.answer_store (s : State) (p : Port) (r : Reply) : (s.answer p r).store = s.store := by
  unfold State.answer; split <;> simp
@[simp] theorem State.answer_composer (s : State) (p : Port) (r : Reply) : (s.answer p r).composer = s.composer := by
  unfold State.answer; split <;> simp
@[simp] theorem State.answer_links (s : State) (p : Port) (r : Reply) : (s.answer p r).links = s.links := by
  unfold State.answer; split <;> simp
@[simp] theorem State.answer_cues (s : State) (p : Port) (r : Reply) : (s.answer p r).cues = s.cues := by
  unfold State.answer; split <;> simp
@[simp] theorem State.answer_clock (s : State) (p : Port) (r : Reply) : (s.answer p r).clock = s.clock := by
  unfold State.answer; split <;> simp

end Sys2Proof.Machine
end

