-- ==== Sys2Proof/Laws/Memory.lean ====
section
/-! SUPPORT. The text memory: a read after a write, and the canonical form that every write keeps (5.1). -/

namespace Sys2Proof.Machine

-- One proof at a time: proofs elaborated side by side, each waiting for the kernel, take a thread each.
set_option Elab.async false

/-- A cell reads what was last stored in it. -/
theorem readCell_writeCell (m : List Host.Cell) (h : Memory.wf m = true) (k : Nat) (x : Byte) :
    readCell (writeCell m k x) k = x := by
  induction m with
  | nil => unfold writeCell; split <;> simp_all [readCell]
  | cons c m ih =>
    obtain ⟨a, b⟩ := c
    have hm : Memory.wf m = true := by
      cases m with
      | nil => rfl
      | cons d m => obtain ⟨d1, d2⟩ := d; simp only [Memory.wf, Bool.and_eq_true] at h; exact h.2
    have hlow : ∀ j, j ≤ a → readCell m j = blankCell := by
      clear ih
      intro j hj
      induction m generalizing a b with
      | nil => rfl
      | cons d m ihm =>
        obtain ⟨d1, d2⟩ := d
        simp only [Memory.wf, Bool.and_eq_true, decide_eq_true_eq] at h
        have hd : a < d1 := h.1.2
        have hne : j ≠ d1 := by omega
        rw [readCell, if_neg hne]
        refine ihm d1 d2 ?_ ?_ (by omega)
        · cases m with
          | nil => simpa [Memory.wf] using hm
          | cons e m => exact hm
        · cases m with
          | nil => rfl
          | cons e m => obtain ⟨e1, e2⟩ := e; simp only [Memory.wf, Bool.and_eq_true] at hm; exact hm.2
    unfold writeCell
    split
    · next hk =>
      split
      · next hx =>
        subst hx
        have : k ≠ a := by omega
        rw [readCell, if_neg this]
        exact hlow k (by omega)
      · simp [readCell]
    · split
      · next hk =>
        subst hk
        split
        · next hx => subst hx; exact hlow k (Nat.le_refl _)
        · simp [readCell]
      · next hne => rw [readCell, if_neg hne]; exact ih hm

/-- Every other cell reads what it read. -/
theorem readCell_writeCell_ne (m : List Host.Cell) {k j : Nat} (hne : j ≠ k) (x : Byte) :
    readCell (writeCell m k x) j = readCell m j := by
  induction m with
  | nil => unfold writeCell; split <;> simp [readCell, hne]
  | cons c m ih =>
    obtain ⟨a, b⟩ := c
    unfold writeCell
    split
    · split
      · rfl
      · simp [readCell, hne]
    · split
      · next hk =>
        subst hk
        split <;> simp [readCell, hne]
      · simp [readCell, ih]

/-- The form after a smaller address is put in front. -/
theorem Memory.wf_cons {a : Nat} {b : Byte} {m : List Host.Cell} (hb : b ≠ blankCell)
    (hlt : ∀ c ∈ m.head?, a < c.1) (h : Memory.wf m = true) : Memory.wf ((a, b) :: m) = true := by
  cases m with
  | nil => simp [Memory.wf, hb]
  | cons c m =>
    obtain ⟨c1, c2⟩ := c
    have : a < c1 := hlt (c1, c2) (by simp)
    simp [Memory.wf, hb, this, h]

theorem Memory.wf_tail {c : Host.Cell} {m : List Host.Cell} (h : Memory.wf (c :: m) = true) : Memory.wf m = true := by
  cases m with
  | nil => rfl
  | cons d m => obtain ⟨d1, d2⟩ := d; simp only [Memory.wf, Bool.and_eq_true] at h; exact h.2

theorem Memory.wf_head {a : Nat} {b : Byte} {m : List Host.Cell} (h : Memory.wf ((a, b) :: m) = true) :
    b ≠ blankCell ∧ ∀ c ∈ m.head?, a < c.1 := by
  cases m with
  | nil => simpa [Memory.wf] using h
  | cons d m =>
    obtain ⟨d1, d2⟩ := d
    simp only [Memory.wf, Bool.and_eq_true, decide_eq_true_eq, bne_iff_ne] at h
    refine ⟨h.1.1, fun c hc => ?_⟩
    simp only [List.head?_cons, Option.mem_some_iff] at hc
    exact hc ▸ h.1.2

/-- The first address after a write is the smaller of the two. -/
theorem writeCell_head {a k : Nat} {x : Byte} {m : List Host.Cell} (hm : ∀ c ∈ m.head?, a < c.1)
    (h : Memory.wf m = true) (hk : a < k) : ∀ c ∈ (writeCell m k x).head?, a < c.1 := by
  cases m with
  | nil => unfold writeCell; split <;> simp [hk]
  | cons d m =>
    obtain ⟨d1, d2⟩ := d
    have hd : a < d1 := hm (d1, d2) (by simp)
    have ht := (Memory.wf_head h).2
    unfold writeCell
    split
    · split <;> simp [hk, hd]
    · split
      · split
        · intro c hc; exact Nat.lt_trans hd (ht c hc)
        · simp [hk]
      · simp [hd]

/-- A write keeps the canonical form. -/
theorem Memory.wf_writeCell {m : List Host.Cell} (h : Memory.wf m = true) (k : Nat) (x : Byte) :
    Memory.wf (writeCell m k x) = true := by
  induction m with
  | nil => unfold writeCell; split <;> simp_all [Memory.wf]
  | cons c m ih =>
    obtain ⟨a, b⟩ := c
    have hb := Memory.wf_head h
    have hm := Memory.wf_tail h
    unfold writeCell
    split
    · next hk =>
      split
      · exact h
      · next hx => exact Memory.wf_cons hx (by simpa using hk) h
    · split
      · next hk =>
        subst hk
        split
        · exact hm
        · next hx => exact Memory.wf_cons hx hb.2 hm
      · next h1 h2 => exact Memory.wf_cons hb.1 (writeCell_head hb.2 hm (by omega)) (ih hm)

/-- Storing a row of codes keeps the canonical form. -/
theorem Memory.wf_writeCells (xs : List Byte) {m : List Host.Cell} (h : Memory.wf m = true) (k : Nat) :
    Memory.wf (writeCells m k xs) = true := by
  induction xs generalizing m k with
  | nil => exact h
  | cons x xs ih => exact ih (Memory.wf_writeCell h k x) (k + 1)

/-- A cell outside the cells stored reads what it read. -/
theorem readCell_writeCells_outside (xs : List Byte) (m : List Host.Cell) (k j : Nat)
    (h : j < k ∨ k + xs.length ≤ j) : readCell (writeCells m k xs) j = readCell m j := by
  induction xs generalizing m k with
  | nil => rfl
  | cons x xs ih =>
    simp only [List.length_cons] at h
    rw [writeCells, ih _ _ (by omega), readCell_writeCell_ne _ (by omega)]

/-- A cell among the cells stored reads its new code. -/
theorem readCell_writeCells_inside (xs : List Byte) (m : List Host.Cell) (hm : Memory.wf m = true) (k i : Nat)
    (h : i < xs.length) : readCell (writeCells m k xs) (k + i) = xs[i] := by
  induction xs generalizing m k i with
  | nil => simp at h
  | cons x xs ih =>
    rw [writeCells]
    cases i with
    | zero => rw [readCell_writeCells_outside _ _ _ _ (by omega)]; exact readCell_writeCell m hm k x
    | succ i =>
      have := ih (writeCell m k x) (Memory.wf_writeCell hm k x) (k + 1) i (by simpa using h)
      simpa [Nat.add_assoc, Nat.add_comm 1 i] using this

end Sys2Proof.Machine
end

