-- ==== Sys2Proof/Laws/Service.lean ====
section
/-! SUPPORT. Commands in service: what serving one gives, and that raising events leaves every port's service as it is. -/

namespace Sys2Proof.Machine

-- One proof at a time: proofs elaborated side by side, each waiting for the kernel, take a thread each.
set_option Elab.async false

/-- A port of a state after one port was replaced. -/
theorem State.port_setPort_cases (s : State) (p q : Port) (x : PortState) :
    (s.setPort p x).port q = if q = p then x else s.port q := by
  cases p <;> cases q <;> rfl

/-- The service of every port after one port was replaced by one with the same service. -/
theorem State.service_setPort (s : State) (p q : Port) (x : PortState) (h : x.service = (s.port p).service) :
    ((s.setPort p x).port q).service = (s.port q).service := by
  rw [State.port_setPort_cases]
  split
  · next e => rw [e, h]
  · rfl

@[simp] theorem State.service_raise (s : State) (p q : Port) (e : Event) :
    ((s.raise p e).port q).service = (s.port q).service :=
  State.service_setPort s p q _ (by simp)

@[simp] theorem State.service_raiseBoth (s : State) (q : Port) (e : Event) :
    ((s.raiseBoth e).port q).service = (s.port q).service := by
  simp [State.raiseBoth]

@[simp] theorem State.service_raiseRouted (s : State) (q : Port) (e : Event) :
    ((s.raiseRouted e).port q).service = (s.port q).service := by
  unfold State.raiseRouted; split <;> (try split) <;> simp

@[simp] theorem State.service_raiseAll (s : State) (q : Port) (es : List Event) :
    ((s.raiseAll es).port q).service = (s.port q).service := by
  induction es generalizing s with
  | nil => rfl
  | cons e es ih => simp [State.raiseAll, ih]

@[simp] theorem State.service_fireWatch (s : State) (c : Ctrl) (q : Port) (m : BitVec 16) :
    ((s.fireWatch c m).port q).service = (s.port q).service := by
  unfold State.fireWatch
  rw [State.service_raise]
  exact State.service_setPort s c.port q _ rfl

@[simp] theorem State.service_offerTo (c : Ctrl) (v : List Byte) (s : State) (q : Port) :
    ((State.offerTo c v s).port q).service = (s.port q).service := by
  unfold State.offerTo; split <;> (try split) <;> simp

@[simp] theorem State.service_noted (s t : State) (q : Port) :
    ((s.noted t).port q).service = (t.port q).service := by
  simp [State.noted]

/-- Events and the service of a port do not touch each other. -/
theorem PortState.enter_service_comm (ps : PortState) (v : Service) (e : Event) :
    ({ ps with service := v } : PortState).enter e = { ps.enter e with service := v } := by
  unfold PortState.enter; simp only []; split <;> rfl

theorem State.raise_setService (s : State) (p q : Port) (v : Service) (e : Event) :
    (s.setService p v).raise q e = (s.raise q e).setService p v := by
  cases p <;> cases q <;>
    simp [State.setService, State.raise, State.port, State.setPort, PortState.enter_service_comm]

theorem State.raiseBoth_setService (s : State) (p : Port) (v : Service) (e : Event) :
    (s.setService p v).raiseBoth e = (s.raiseBoth e).setService p v := by
  simp [State.raiseBoth, State.raise_setService]

theorem State.raiseRouted_setService (s : State) (p : Port) (v : Service) (e : Event) :
    (s.setService p v).raiseRouted e = (s.raiseRouted e).setService p v := by
  unfold State.raiseRouted
  simp only [State.setService_settings, State.setService_arbiter]
  cases e.route s.settings.routing with
  | none => rfl
  | some r =>
    cases r
    · cases s.arbiter.holder <;> simp [State.raise_setService, State.raiseBoth_setService]
    · simp [State.raiseBoth_setService]
    · rfl

/-- What a block makes of a command it has taken: the state after it, with its reply given where it is given at once. -/
def Served.finish (r : Served) (p : Port) : State :=
  match r with
  | (t, some a) => t.answer p a
  | (t, none) => t

/-- Serving a waiting command is its block's work on it (R175). -/
theorem serve_commanded {s : State} {p : Port} {code : Byte} {payload : List Byte}
    (h : s.commanded p code payload) (f : List Byte → State → Served) :
    serve p code f s = .next ((f payload (s.setService p (.serving code payload .taken))).finish p) := by
  obtain ⟨h1, h2⟩ := h
  have h1 : s.power.operates = true := h1
  simp only [serve, h1, h2, if_true, Served.finish]
  generalize f payload (s.setService p (.serving code payload .taken)) = r
  obtain ⟨t, _ | a⟩ := r <;> rfl

/-- A reply reaches the port whose command was taken. -/
theorem State.answer_taken {s : State} {p : Port} {code : Byte} {payload : List Byte}
    (h : (s.port p).service = .serving code payload .taken) (r : Reply) :
    s.answer p r = s.answered p code payload r := by
  simp [State.answer, h, State.answered]

@[simp] theorem State.answer_setService_taken (s : State) (p : Port) (code : Byte) (payload : List Byte) (r : Reply) :
    (s.setService p (.serving code payload .taken)).answer p r = s.answered p code payload r := by
  rw [State.answer_taken (State.setService_service _ _ _)]
  simp [State.answered]

@[simp] theorem State.answered_service (s : State) (p : Port) (code : Byte) (payload : List Byte) (r : Reply) :
    ((s.answered p code payload r).port p).service = .serving code payload (.replied r) := by
  simp [State.answered]

/-- A command of the holder whose payload reads as `x`, served: the authority check and the payload check pass (R79). -/
theorem serve_authorised {α : Type} {s : State} {c : Ctrl} {code : Byte} {payload : List Byte} {x : α}
    (h : s.commanded c.port code payload) (hh : s.arbiter.holder = some c) (parse : List Byte → Option α)
    (hp : parse payload = some x) (f : α → State → Served) :
    serve c.port code (authorised c (parsed parse f)) s =
      .next ((f x (s.setService c.port (.serving code payload .taken))).finish c.port) := by
  rw [serve_commanded h]
  simp [authorised, hh, parsed, hp]

/-- A reply given at once by a block that left the service of the port as it took it. -/
theorem Served.finish_done {s t : State} {p : Port} {code : Byte} {payload : List Byte} {r : Reply}
    (h : (t.port p).service = ((s.setService p (.serving code payload .taken)).port p).service) :
    Served.finish (t, some r) p = t.answered p code payload r := by
  simp only [Served.finish]
  exact State.answer_taken (h.trans (State.setService_service _ _ _)) r

/-- A command row that finds no such command waiting changes nothing (log 2). -/
theorem serve_other {s : State} {p : Port} {code : Byte} (f : List Byte → State → Served)
    (h : ∀ payload, (s.port p).service ≠ .serving code payload .waiting) : serve p code f s = .next s := by
  unfold serve
  split
  · split
    · next c payload e =>
      split
      · next hc => exact absurd (hc ▸ e) (h payload)
      · rfl
    · rfl
  · rfl

/-- A held part does not operate (R190). -/
theorem Power.operates_held {p : Power} (h : p.held = true) : p.operates = false := by
  simp [Power.operates, h]

/-- A part whose ports are open is not held (R190). -/
theorem State.operating.released {s : State} (h : s.operating) : s.released := by
  cases e : s.power.held with
  | false => exact e
  | true => exact absurd (h.symm.trans (Power.operates_held e)) (by decide)

/-- A part whose ports are not open serves nothing (R190). -/
theorem serve_closed {s : State} (h : s.power.operates = false) (p : Port) (code : Byte)
    (f : List Byte → State → Served) : serve p code f s = .next s := by
  simp [serve, h]

/-- A part whose ports are not open takes no step of its own but those of the Time Base (R190). -/
theorem whenOperating_closed {s : State} (h : s.power.operates = false) (f : State → State) :
    whenOperating s f = .next s := by
  simp [whenOperating, h]

/-- An operating part takes the step. -/
theorem whenOperating_operating {s : State} (h : s.operating) (f : State → State) :
    whenOperating s f = .next (f s) := by
  have : s.power.operates = true := h
  simp [whenOperating, this]

/-- The Time Base of a part that is not held takes the step (R190). -/
theorem whenReleased_released {s : State} (h : s.released) (f : State → State) :
    whenReleased s f = .next (f s) := by
  have : s.power.held = false := h
  simp [whenReleased, this]

/-- A held part's Time Base takes nothing (R190). -/
theorem whenReleased_held {s : State} (h : s.power.held = true) (f : State → State) : whenReleased s f = .next s := by
  simp [whenReleased, h]

/-- Serving answers a next state, whatever the state. -/
theorem serve_next (p : Port) (code : Byte) (f : List Byte → State → Served) (s : State) :
    ∃ t, serve p code f s = .next t := by
  unfold serve
  split
  · split
    · split
      · split <;> exact ⟨_, rfl⟩
      · exact ⟨_, rfl⟩
    · exact ⟨_, rfl⟩
  · exact ⟨_, rfl⟩

end Sys2Proof.Machine
end

