-- ==== Sys2Proof/Laws/Table.lean ====
section
/-! SUPPORT. The Departure Table's shared operations: what placing, freeing, the conflict check and the second phase of a
command do. -/

namespace Sys2Proof

@[simp] theorem put_self {α : Type} {n : Nat} (v : Vector α n) (i : Fin n) (x : α) : (put v i x)[i.val] = x := by
  simp [put]

theorem put_get {α : Type} {n : Nat} (v : Vector α n) (i j : Fin n) (x : α) :
    (put v i x)[j.val] = if j = i then x else v[j.val] := by
  split
  · next h => subst h; exact put_self v j x
  · next h =>
    have hne : i.val ≠ j.val := fun e => h (Fin.ext e.symm)
    simp [put, hne]

@[simp] theorem mapAll_get {α β : Type} {n : Nat} (f : α → β) (v : Vector α n) (i : Fin n) :
    (mapAll f v)[i.val] = f v[i.val] := by
  simp [mapAll]

end Sys2Proof

namespace Sys2Proof.Machine

-- One proof at a time: proofs elaborated side by side, each waiting for the kernel, take a thread each.
set_option Elab.async false

@[simp] theorem Record.unflagged_conflict (r : Record) (b : Bool) :
    ({ r with conflict := b } : Record).unflagged = r.unflagged := rfl

theorem Record.unflagged_comp (b : Record → Bool) (x : Option Record) :
    (x.map fun r => { r with conflict := b r }).map Record.unflagged = x.map Record.unflagged := by
  cases x <;> rfl

/-- The list keeps its slots at an insertion, and takes the new one. -/
theorem Table.mem_insertOrdered (t : Table) (i j : Slot) (l : List Slot) :
    j ∈ t.insertOrdered i l ↔ j = i ∨ j ∈ l := by
  induction l with
  | nil => simp [Table.insertOrdered]
  | cons k ks ih =>
    unfold Table.insertOrdered
    split
    · simp
    · simp only [List.mem_cons, ih]; tauto

theorem Table.nodup_insertOrdered (t : Table) (i : Slot) (l : List Slot) (hi : i ∉ l) (hl : l.Nodup) :
    (t.insertOrdered i l).Nodup := by
  induction l with
  | nil => simp [Table.insertOrdered]
  | cons k ks ih =>
    unfold Table.insertOrdered
    split
    · exact List.nodup_cons.2 ⟨hi, hl⟩
    · rw [List.nodup_cons] at hl ⊢
      have hik : i ≠ k := fun e => hi (e ▸ List.mem_cons_self)
      refine ⟨fun h => ?_, ih (fun h => hi (List.mem_cons_of_mem _ h)) hl.2⟩
      rcases (t.mem_insertOrdered i k ks).1 h with e | e
      · exact hik e.symm
      · exact hl.1 e

/-- Placing a record fills its slot and no other, and leaves the list with that slot and the rest of what it held. -/
theorem Table.place_spec (t : Table) (i : Slot) (r : Record) :
    (t.place i r).slots = put t.slots i (some r) ∧ (∀ j, j ∈ (t.place i r).order ↔ j = i ∨ j ∈ t.order) ∧
      (t.order.Nodup → (t.place i r).order.Nodup) ∧
      t.place i r = { t with slots := (t.place i r).slots, order := (t.place i r).order } := by
  refine ⟨rfl, fun j => ?_, fun h => ?_, rfl⟩
  · simp only [Table.place, Table.mem_insertOrdered, List.mem_filter, bne_iff_ne]
    by_cases e : j = i <;> simp [e]
  · exact Table.nodup_insertOrdered _ i _ (by simp) (h.filter _)

/-- Freeing a slot empties it and takes it from the list; every other slot keeps its record, conflict flags apart
(R22). -/
theorem Table.free_spec (t : Table) (i : Slot) :
    (t.free i).slots[i] = none ∧ t.keepsOthers (t.free i) i ∧ (t.free i).order = t.order.filter (· != i) ∧
      (∀ p, p ∈ (t.free i).pairs ↔ p ∈ t.pairs ∧ p.1 ≠ i ∧ p.2 ≠ i) ∧
      t.free i = { t with slots := (t.free i).slots, order := (t.free i).order, pairs := (t.free i).pairs } := by
  refine ⟨?_, fun j hj => ?_, rfl, fun p => ?_, rfl⟩
  · simp [Table.free]
  · simp only [Table.free, Fin.getElem_fin, Vector.getElem_ofFn, Fin.eta, hj, if_false]
    split
    · exact Record.unflagged_comp _ _
    · rfl
  · simp [Table.free]

/-- The conflict check changes conflict flags and the pair set alone, and the pair set becomes that of the conflicting
pairs (R27). -/
theorem Table.checked_spec (t : Table) (w : Nat) :
    (∀ j : Slot, ((t.checked w).slots[j]).map Record.unflagged = (t.slots[j]).map Record.unflagged) ∧
      (∀ j : Slot, (t.checked w).slots[j].isSome = t.slots[j].isSome) ∧
      (t.checked w).pairs = t.conflicts w ∧
      t.checked w = { t with slots := (t.checked w).slots, pairs := (t.checked w).pairs } := by
  refine ⟨fun j => ?_, fun j => ?_, rfl, rfl⟩
  · simp only [Table.checked, Fin.getElem_fin, Vector.getElem_ofFn, Fin.eta]
    exact Record.unflagged_comp _ _
  · simp [Table.checked]

@[simp] theorem Table.checked_order (t : Table) (w : Nat) : (t.checked w).order = t.order := by
  simp only [Table.checked]

theorem conflicting_unflagged (w : Nat) (a b c d : Record) (h1 : a.unflagged = c.unflagged)
    (h2 : b.unflagged = d.unflagged) : conflicting w a b = conflicting w c d := by
  cases a; cases b; cases c; cases d
  simp only [Record.unflagged, Record.mk.injEq] at h1 h2
  obtain ⟨rfl, rfl, rfl, rfl, rfl, rfl, rfl, rfl, rfl, rfl, rfl, rfl, rfl, rfl, rfl, -⟩ := h1
  obtain ⟨rfl, rfl, rfl, rfl, rfl, rfl, rfl, rfl, rfl, rfl, rfl, rfl, rfl, rfl, rfl, -⟩ := h2
  rfl

theorem map_unflagged_cases {x y : Option Record} (h : x.map Record.unflagged = y.map Record.unflagged) :
    (x = none ∧ y = none) ∨ ∃ a b, x = some a ∧ y = some b ∧ a.unflagged = b.unflagged := by
  cases x <;> cases y <;> simp_all

/-- Whether two slots conflict does not depend on conflict flags. -/
theorem Table.conflictPair_unflagged (t u : Table) (w : Nat) (i j : Slot)
    (hi : (t.slots[i]).map Record.unflagged = (u.slots[i]).map Record.unflagged)
    (hj : (t.slots[j]).map Record.unflagged = (u.slots[j]).map Record.unflagged) :
    t.conflictPair w i j = u.conflictPair w i j := by
  unfold Table.conflictPair
  rcases map_unflagged_cases hi with ⟨h1, h2⟩ | ⟨a, c, h1, h2, h3⟩
  · simp only [h1, h2]
  · rcases map_unflagged_cases hj with ⟨h4, h5⟩ | ⟨b, d, h4, h5, h6⟩
    · simp only [h1, h2, h4, h5]
    · simp only [h1, h2, h4, h5]
      exact conflicting_unflagged w a b c d h3 h6

/-- The pairs of the conflict check are the conflicting pairs, lower slot first (R27, R28). -/
theorem Table.mem_conflicts (t : Table) (w : Nat) (i j : Slot) :
    (i, j) ∈ t.conflicts w ↔ i < j ∧ t.conflictPair w i j = true := by
  have h1 : t.conflictPair w i j = true →
      (t.slots[i].any fun r => r.state.atPlatform) = true ∧ (t.slots[j].any fun r => r.state.atPlatform) = true := by
    unfold Table.conflictPair
    cases t.slots[i] with
    | none => simp
    | some a =>
      cases t.slots[j] with
      | none => simp
      | some b => simp only [conflicting, Bool.and_eq_true, Option.any_some]; tauto
  simp only [Table.conflicts, List.mem_flatMap, List.mem_map, List.mem_filter, allSlots, List.mem_finRange, true_and,
    Bool.and_eq_true, decide_eq_true_eq, Prod.mk.injEq]
  constructor
  · rintro ⟨a, -, b, ⟨-, hlt, hc⟩, rfl, rfl⟩
    exact ⟨hlt, hc⟩
  · rintro ⟨hlt, hc⟩
    exact ⟨i, (h1 hc).1, j, ⟨(h1 hc).2, hlt, hc⟩, rfl, rfl⟩

theorem State.changesTable_raiseAll (s : State) (t : Table) (inbox : List CueMessage) (es : List Event) :
    s.changesTable (({ s with table := t, cues := { s.cues with inbox := inbox } } : State).raiseAll es) := by
  unfold State.changesTable
  generalize h : ({ s with table := t, cues := { s.cues with inbox := inbox } } : State).raiseAll es = u
  have e1 : u.pending = s.pending := by rw [← h]; simp
  have e2 : u.power = s.power := by rw [← h]; simp
  have e3 : u.ident = s.ident := by rw [← h]; simp
  have e4 : u.settings = s.settings := by rw [← h]; simp
  have e5 : u.stored = s.stored := by rw [← h]; simp
  have e6 : u.retention = s.retention := by rw [← h]; simp
  have e7 : u.arbiter = s.arbiter := by rw [← h]; simp
  have e8 : u.time = s.time := by rw [← h]; simp
  have e9 : u.store = s.store := by rw [← h]; simp
  have e10 : u.composer = s.composer := by rw [← h]; simp
  have e11 : u.links = s.links := by rw [← h]; simp
  have e12 : u.clock = s.clock := by rw [← h]; simp
  have e13 : u.cues = { s.cues with inbox := inbox } := by rw [← h]; simp
  cases u
  simp only at e1 e2 e3 e4 e5 e6 e7 e8 e9 e10 e11 e12 e13
  subst e1 e2 e3 e4 e5 e6 e7 e8 e9 e10 e11 e12 e13
  rfl

/-- A change of the table by a command in service is one from the state in which the command waited. -/
theorem State.changesTable_answered {s t : State} {p : Port} {v : Service} (code : Byte) (payload : List Byte)
    (r : Reply) (h : (s.setService p v).changesTable t) : s.changesTable (t.answered p code payload r) := by
  unfold State.changesTable at h ⊢
  apply State.eq_of_fields
  case ports => rfl
  case table => rfl
  case cues => simp only [State.answered, State.setService_cues]; rw [h]; simp
  all_goals simp only [State.answered, State.setService_pending, State.setService_power, State.setService_ident,
    State.setService_settings, State.setService_stored, State.setService_retention, State.setService_arbiter,
    State.setService_time, State.setService_store, State.setService_composer, State.setService_links,
    State.setService_clock]
  all_goals (rw [h]; simp)

/-- What a change makes of the table before the conflict check. -/
theorem Change.applied_spec (ch : Change) (s : State) (i : Slot) :
    ((ch.applied s i).slots[i] = (ch.evaluation s).record) ∧ s.table.keepsOthers (ch.applied s i) i ∧
      (∀ j : Slot, j ≠ i → (j ∈ (ch.applied s i).order ↔ j ∈ s.table.order)) ∧
      (i ∈ (ch.applied s i).order ↔ (ch.evaluation s).record.isSome = true) ∧
      (s.table.order.Nodup → (ch.applied s i).order.Nodup) := by
  have hp := Table.place_spec s.table i ch.record
  unfold Change.applied
  cases h : (ch.evaluation s).record with
  | some r =>
    have hq := Table.place_spec (s.table.place i ch.record) i r
    refine ⟨?_, fun j hj => ?_, fun j hj => ?_, ?_, fun hn => hq.2.2.1 (hp.2.2.1 hn)⟩
    · simp only [hq.1, Fin.getElem_fin, put_self]
    · simp only [hq.1, hp.1, Fin.getElem_fin, put_get, hj, if_false]
    · simp only [hq.2.1, hp.2.1, hj, false_or]
    · simp only [hq.2.1, true_or, Option.isSome_some]
  | none =>
    have hf := Table.free_spec (s.table.place i ch.record) i
    refine ⟨hf.1, fun j hj => ?_, fun j hj => ?_, ?_, fun hn => ?_⟩
    · rw [hf.2.1 j hj]; simp only [hp.1, Fin.getElem_fin, put_get, hj, if_false]
    · simp only [hf.2.2.1, List.mem_filter, hp.2.1, bne_iff_ne, hj, false_or, ne_eq, not_false_eq_true, and_true]
    · simp [hf.2.2.1]
    · simp only [hf.2.2.1]; exact (hp.2.2.1 hn).filter _

/-- The second phase of a command that changes one record (R33): the record as it stands after its evaluation, every
other record as it was, the list with or without the slot, the conflicting pairs, the notifications in the order of
R26, and the reply DONE; nothing else is changed but ports. -/
theorem Change.carryOut_spec (ch : Change) (c : Ctrl) (i : Slot) (s : State) :
    ∃ t, ch.carryOut c i s = (t, some ⟨.done, []⟩) ∧
      (t.table.slots[i]).map Record.unflagged = ((ch.evaluation s).record).map Record.unflagged ∧
      s.table.keepsOthers t.table i ∧ s.changesTable t ∧
      t.cues.inbox = s.cues.inbox ++ (ch.notifications s i).map (fun n => CueMessage.notice n (some c)) ∧
      (∀ j : Slot, j ≠ i → (j ∈ t.table.order ↔ j ∈ s.table.order)) ∧
      (i ∈ t.table.order ↔ (ch.evaluation s).record.isSome = true) ∧
      (s.table.order.Nodup → t.table.order.Nodup) ∧
      (∀ a b : Slot, (a, b) ∈ t.table.pairs ↔
        a < b ∧ t.table.conflictPair s.settings.conflictWindow a b = true) ∧
      ∀ p, (t.port p).service = (s.port p).service := by
  have hch := Table.checked_spec (ch.applied s i) s.settings.conflictWindow
  have hap := ch.applied_spec s i
  refine ⟨_, rfl, ?_⟩
  simp only [State.raiseAll_table, State.hand_table, State.service_raiseAll, Table.checked_order]
  refine ⟨?_, fun j hj => ?_, State.changesTable_raiseAll s _ _ _, ?_, hap.2.2.1, ?_, ?_, fun a b => ?_, fun p => ?_⟩
  · rw [hch.1 i, hap.1]
  · rw [hch.1 j, hap.2.1 j hj]
  · simp [State.hand]
  · exact hap.2.2.2.1
  · exact hap.2.2.2.2
  · rw [hch.2.2.1, Table.mem_conflicts,
      Table.conflictPair_unflagged _ _ s.settings.conflictWindow a b (hch.1 a) (hch.1 b)]
  · cases p <;> simp only [State.port, State.hand]

/-! ### The second phase in the terms of the claims (State.changesRecord) -/

/-- Raising events does not look at the table or the cues. -/
theorem State.raiseAll_with (s : State) (t : Table) (c : Cues) (es : List Event) :
    ({ s with table := t, cues := c } : State).raiseAll es = { s.raiseAll es with table := t, cues := c } := by
  induction es generalizing s with
  | nil => rfl
  | cons e es ih =>
    have h : ({ s with table := t, cues := c } : State).raiseRouted e = { s.raiseRouted e with table := t, cues := c } := by
      unfold State.raiseRouted
      simp only
      cases e.route s.settings.routing with
      | none => rfl
      | some r => cases r with
        | both => rfl
        | none => rfl
        | holder => cases s.arbiter.holder with
          | none => rfl
          | some h => cases h <;> rfl
    simp only [State.raiseAll, h, ih]

/-- Raising events and the service of a port do not touch each other. -/
theorem State.raiseAll_setService (s : State) (p : Port) (v : Service) (es : List Event) :
    (s.setService p v).raiseAll es = (s.raiseAll es).setService p v := by
  induction es generalizing s with
  | nil => rfl
  | cons e es ih => simp only [State.raiseAll, State.raiseRouted_setService, ih]

/-- The conflicting pairs stand in ascending order of the lower slot and then of the higher one (R28). -/
theorem Table.conflicts_ascending (t : Table) (w : Nat) :
    (t.conflicts w).Pairwise (fun p q => p.1 < q.1 ∨ p.1 = q.1 ∧ p.2 < q.2) := by
  have h : ∀ f : Slot → Bool, (allSlots.filter f).Pairwise (· < ·) := fun f => (List.pairwise_lt_finRange 96).filter f
  simp only [Table.conflicts, List.pairwise_flatMap, List.pairwise_map]
  refine ⟨fun i _ => ?_, ?_⟩
  · exact ((h _).filter _).imp fun hab => .inr ⟨trivial, hab⟩
  · refine (h _).imp fun {a b} hab x hx y hy => ?_
    simp only [List.mem_map] at hx hy
    obtain ⟨_, -, rfl⟩ := hx
    obtain ⟨_, -, rfl⟩ := hy
    exact .inl hab

/-- After the conflict check a record's flag says whether its slot belongs to a pair (R27). -/
theorem Table.checked_flag (t : Table) (w : Nat) (j : Slot) (r : Record) (h : (t.checked w).slots[j] = some r) :
    r.conflict = true ↔ ∃ k : Slot, (j, k) ∈ (t.checked w).pairs ∨ (k, j) ∈ (t.checked w).pairs := by
  simp only [Table.checked, Fin.getElem_fin, Vector.getElem_ofFn, Fin.eta, Option.map_eq_some_iff] at h
  obtain ⟨a, -, rfl⟩ := h
  simp only [inPairs, List.any_eq_true, Bool.or_eq_true, beq_iff_eq, Table.checked, Prod.exists]
  constructor
  · rintro ⟨a, b, hm, rfl | rfl⟩
    · exact ⟨b, .inl hm⟩
    · exact ⟨a, .inr hm⟩
  · rintro ⟨k, hm | hm⟩
    · exact ⟨j, k, hm, .inl rfl⟩
    · exact ⟨k, j, hm, .inr rfl⟩

/-- The conflict check changes no platform. -/
theorem Table.checked_platform (t : Table) (w : Nat) (j : Slot) :
    ((t.checked w).slots[j].bind fun r => r.platform) = t.slots[j].bind fun r => r.platform := by
  simp only [Table.checked, Fin.getElem_fin, Vector.getElem_ofFn, Fin.eta]
  cases t.slots[j.val] <;> rfl

/-- An evaluation that frees nothing keeps every field that a notification carries (R25). -/
theorem evaluate_carried (cfg : Settings) (timed : Bool) (n : Int) (x r : Record)
    (h : (evaluate cfg timed n x).record = some r) (i : Slot) :
    r.refresh i = x.refresh i ∧ ∀ (k : CueKind) (m : Int), r.issue i k none m = x.issue i k none m := by
  have hf : (flashExpiry cfg n x).refresh i = x.refresh i ∧
      ∀ (k : CueKind) (m : Int), (flashExpiry cfg n x).issue i k none m = x.issue i k none m := by
    unfold flashExpiry; split <;> (try split) <;> exact ⟨rfl, fun _ _ => rfl⟩
  suffices hs : ∀ y : Record, (if timed then lifecycle cfg n y else .keep y).record = some r →
      r.refresh i = y.refresh i ∧ ∀ (k : CueKind) (m : Int), r.issue i k none m = y.issue i k none m from
    ⟨(hs _ h).1.trans hf.1, fun k m => ((hs _ h).2 k m).trans (hf.2 k m)⟩
  intro y hy
  split at hy
  · unfold lifecycle moveToGone moveToClosing moveToCalled moveToWaiting Evaluation.keep at hy
    repeat' split at hy
    all_goals first
      | (obtain rfl := Option.some.inj hy; exact ⟨rfl, fun _ _ => rfl⟩)
      | exact absurd hy (by simp)
  · obtain rfl := Option.some.inj hy; exact ⟨rfl, fun _ _ => rfl⟩

/-- What a command that changes one record leaves, from the state in which the command waited. -/
theorem Change.carryOut_finish (ch : Change) (c : Ctrl) (code : Byte) (payload : List Byte) (i : Slot) (s : State) :
    (ch.carryOut c i (s.setService c.port (.serving code payload .taken))).finish c.port =
      { (s.raiseAll ((ch.applied s i).conflictEvents s.settings.conflictWindow)).answered c.port code payload
          ⟨.done, []⟩ with
        table := (ch.applied s i).checked s.settings.conflictWindow
        cues := { s.cues with
          inbox := s.cues.inbox ++ (ch.notifications s i).map fun n => CueMessage.notice n (some c) } } := by
  have h1 : ∀ v, ch.applied (s.setService c.port v) i = ch.applied s i := fun v => by cases c <;> rfl
  have h2 : ∀ v, ch.notifications (s.setService c.port v) i = ch.notifications s i := fun v => by cases c <;> rfl
  have h3 : ∀ v, (s.setService c.port v).settings = s.settings := fun v => by cases c <;> rfl
  have h4 : ∀ v, (s.setService c.port v).cues = s.cues := fun v => by cases c <;> rfl
  have h5 : ∀ S : State, (ch.carryOut c i S).finish c.port =
      ({ S.raiseAll ((ch.applied S i).conflictEvents S.settings.conflictWindow) with
        table := (ch.applied S i).checked S.settings.conflictWindow
        cues := { S.cues with inbox := S.cues.inbox ++ (ch.notifications S i).map fun n => CueMessage.notice n (some c) } }
          : State).answer c.port ⟨.done, []⟩ := fun S =>
    congrArg (fun u : State => u.answer c.port ⟨.done, []⟩) (State.raiseAll_with S _ _ _)
  rw [h5]
  simp only [h1, h2, h3, h4, State.raiseAll_setService]
  generalize s.raiseAll _ = u
  cases c <;> rfl

/-- A command that changes one record, in the terms of the claims: what it leaves where its evaluation frees nothing. -/
theorem Change.carryOut_changesRecord (ch : Change) (c : Ctrl) (code : Byte) (payload : List Byte) (i : Slot) (s : State)
    (r : Record) (h : (ch.evaluation s).record = some r) :
    s.changesRecord ((ch.carryOut c i (s.setService c.port (.serving code payload .taken))).finish c.port) c code payload i
      ch.record (ch.evaluation s) ch.withdraw ch.refresh ch.ended ch.issues := by
  have hch := Table.checked_spec (ch.applied s i) s.settings.conflictWindow
  have hap := ch.applied_spec s i
  have hcar : r.refresh i = ch.record.refresh i ∧
      ∀ (k : CueKind) (m : Int), r.issue i k none m = ch.record.issue i k none m := by
    unfold Change.evaluation at h
    split at h
    · exact evaluate_carried _ _ _ _ _ h i
    · obtain rfl := Option.some.inj h; exact ⟨rfl, fun _ _ => rfl⟩
  rw [Change.carryOut_finish]
  refine ⟨?_, fun j hj => ?_, ?_, fun a b => ?_, Table.conflicts_ascending _ _, Table.checked_flag _ _, ?_, ?_⟩
  · exact (hch.1 i).trans (congrArg _ hap.1)
  · exact (hch.1 j).trans (hap.2.1 j hj)
  · simp only [Table.checked, Change.applied, h]; rfl
  · exact (Table.mem_conflicts _ _ a b).trans (by
      rw [Table.conflictPair_unflagged _ _ s.settings.conflictWindow a b (hch.1 a) (hch.1 b)])
  · have : ch.notifications s i = handedFor i ch.record (ch.evaluation s) s.table.working ch.withdraw ch.refresh ch.ended
        ch.issues := by
      simp only [Change.notifications, handedFor, withdrawal, h, Option.getD_some, hcar, Option.isNone_some,
        Bool.false_eq_true, if_false, List.append_nil]
      rfl
    rw [this]
  · rintro _ rfl
    have hp : (ch.applied s i).pairs = s.table.pairs := by simp only [Change.applied, h]; rfl
    have he : (ch.applied s i).conflictEvents s.settings.conflictWindow =
        (((ch.applied s i).checked s.settings.conflictWindow).pairs.filter fun p => decide (p ∉ s.table.pairs)).map (fun p =>
          Event.platformConflict ((((ch.applied s i).checked s.settings.conflictWindow).slots[p.1].bind
            fun r => r.platform).getD 0) p.1 p.2) := by
      simp only [Table.checked_platform, Table.conflictEvents, hp]
      show List.map _ (List.filter _ ((ch.applied s i).conflicts _)) = List.map _ (List.filter _ ((ch.applied s i).conflicts _))
      congr 2
      funext p; simp
    rw [he]
end Sys2Proof.Machine
end

