-- ==== Sys2Proof/Laws/Operations.lean ====
section
/-! SUPPORT. The other shared operations, one lemma each: what the operation does, and the fields outside which it changes
nothing. -/

namespace Sys2Proof.Machine

-- One proof at a time: proofs elaborated side by side, each waiting for the kernel, take a thread each.
set_option Elab.async false

/-! ### Events and watches -/

/-- Offering changes to the watches touches ports alone. -/
theorem State.noted_spec (s t : State) : s.noted t = { t with ports := (s.noted t).ports } := by
  apply State.eq_of_fields <;> simp

/-- Where no watch is kept, nothing fires. -/
theorem State.noted_unwatched (s t : State) (h0 : t.ports.p0.watch = none) (h1 : t.ports.p1.watch = none) :
    s.noted t = t := by
  have e0 : State.offerTo .p0 (statusVector s) t = t := by simp [State.offerTo, Ctrl.port, State.port, h0]
  have e1 : State.offerTo .p1 (statusVector s) t = t := by simp [State.offerTo, Ctrl.port, State.port, h1]
  rw [State.noted, e0, e1]

theorem mem_insertEvent (e : Event) (es : List Event) : e ∈ insertEvent e es := by
  induction es with
  | nil => simp [insertEvent]
  | cons x xs ih =>
    unfold insertEvent
    split
    · simp
    · split <;> simp [ih]

/-- Entering an event keeps the entries of other kinds. -/
theorem mem_insertEvent_of_ne {e e' : Event} (h : e.code ≠ e'.code) {es : List Event} (hm : e ∈ es) :
    e ∈ insertEvent e' es := by
  induction es with
  | nil => simp at hm
  | cons x xs ih =>
    unfold insertEvent
    split
    · exact List.mem_cons_of_mem _ hm
    · split
      · next hc =>
        rcases List.mem_cons.1 hm with rfl | hm
        · exact absurd hc.symm h
        · exact List.mem_cons_of_mem _ hm
      · rcases List.mem_cons.1 hm with rfl | hm
        · exact List.mem_cons_self
        · exact List.mem_cons_of_mem _ (ih hm)

/-- Entering an event keeps a set in ascending code with one entry of a kind (R177, R178). -/
theorem insertEvent_ascending (e : Event) {es : List Event} (h : (es.map Event.code).Pairwise (· < ·)) :
    ((insertEvent e es).map Event.code).Pairwise (· < ·) ∧
      ∀ n ∈ (insertEvent e es).map Event.code, n = e.code ∨ n ∈ es.map Event.code := by
  induction es with
  | nil => simp [insertEvent]
  | cons x xs ih =>
    obtain ⟨hx, hxs⟩ := List.pairwise_cons.1 h
    obtain ⟨i1, i2⟩ := ih hxs
    unfold insertEvent
    split
    · next hc =>
      refine ⟨List.pairwise_cons.2 ⟨fun n hn => ?_, h⟩, fun n hn => List.mem_cons.1 hn⟩
      rcases List.mem_cons.1 hn with rfl | hn
      · exact hc
      · exact Nat.lt_trans hc (hx n hn)
    · split
      · next hc =>
        refine ⟨List.pairwise_cons.2 ⟨fun n hn => hc ▸ hx n hn, hxs⟩, fun n hn => ?_⟩
        exact (List.mem_cons.1 hn).imp id (List.mem_cons_of_mem _)
      · next hc hd =>
        refine ⟨List.pairwise_cons.2 ⟨fun n hn => ?_, i1⟩, fun n hn => ?_⟩
        · rcases i2 n hn with rfl | hn
          · omega
          · exact hx n hn
        · rcases List.mem_cons.1 hn with rfl | hn
          · exact .inr List.mem_cons_self
          · exact (i2 n hn).imp id (List.mem_cons_of_mem _)

/-- An event raised to a port whose enable of its kind is ON stands in the port's set; entries of other kinds stay
(R177). -/
theorem PortState.enter_spec (ps : PortState) (e : Event) :
    (ps.enables.getLsbD e.code = true → e ∈ (ps.enter e).events) ∧
      (∀ x ∈ ps.events, x.code ≠ e.code → x ∈ (ps.enter e).events) ∧
      (ps.enables.getLsbD e.code = false → ps.enter e = ps) := by
  refine ⟨fun h => ?_, fun x hx hc => ?_, fun h => ?_⟩
  · simp [PortState.enter, h, PortState.withEvents, mem_insertEvent]
  · unfold PortState.enter
    split
    · exact mem_insertEvent_of_ne hc hx
    · exact hx
  · simp [PortState.enter, h]

/-- Entering an event adds no entry of another kind and takes none away (R177). -/
theorem mem_insertEvent_iff {x e : Event} (h : x.code ≠ e.code) (es : List Event) : x ∈ insertEvent e es ↔ x ∈ es := by
  refine ⟨?_, mem_insertEvent_of_ne h⟩
  have hne : x ≠ e := fun he => h (he ▸ rfl)
  induction es with
  | nil => simp [insertEvent, hne]
  | cons y ys ih =>
    unfold insertEvent
    split
    · simp [hne]
    · split
      · intro hm; exact List.mem_cons_of_mem _ ((List.mem_cons.1 hm).resolve_left hne)
      · intro hm; exact List.mem_cons.2 ((List.mem_cons.1 hm).imp id ih)

/-- An event entered at a port where its kind is enabled: the set takes it, and the attention line is asserted (R177). -/
theorem PortState.enter_enabled (ps : PortState) (e : Event) (h : ps.enables.getLsbD e.code = true) :
    ps.enter e = { ps with events := insertEvent e ps.events, attention := true } := by
  have hne : (insertEvent e ps.events).isEmpty = false :=
    List.isEmpty_eq_false_iff.2 (List.ne_nil_of_mem (mem_insertEvent e _))
  simp only [PortState.enter, h, if_true, PortState.withEvents, hne, Bool.not_false]

/-- The differing items of a watch, item by item (R181). -/
theorem Watch.differing_getLsbD (w : Watch) (v : List Byte) (j : Nat) (hj : j < 11) :
    (w.differing v).getLsbD j = (w.mask.getLsbD j && decide (w.values[j]? ≠ v[j]?)) := by
  have key : ∀ n, n ≤ 11 → ((List.range n).foldl
      (fun acc i => if w.mask.getLsbD i && w.values[i]? != v[i]? then acc ||| (1#16 <<< i) else acc)
        (0 : BitVec 16)).getLsbD j =
      (decide (j < n) && (w.mask.getLsbD j && decide (w.values[j]? ≠ v[j]?))) := by
    intro n
    induction n with
    | zero => intro _; simp
    | succ n ih =>
      intro hn
      have ih := ih (by omega)
      rw [List.range_succ, List.foldl_append, List.foldl_cons, List.foldl_nil]
      by_cases hjn : j = n
      · subst hjn
        split
        · next h =>
          simp only [Bool.and_eq_true, bne_iff_ne] at h
          rw [BitVec.getLsbD_or, ih]
          simp [h.1, h.2]
          omega
        · next h =>
          simp only [Bool.and_eq_true, bne_iff_ne, not_and, not_not] at h
          rw [ih]
          cases hm : w.mask.getLsbD j
          · simp
          · simp [h hm]
      · rw [show decide (j < n + 1) = decide (j < n) from decide_eq_decide.2 (by omega), ← ih]
        split
        · rw [BitVec.getLsbD_or, show (1#16 <<< n).getLsbD j = false by
            simp [BitVec.getLsbD_shiftLeft, BitVec.getLsbD_one]; omega, Bool.or_false]
        · rfl
  rw [Watch.differing, key 11 (by omega)]
  simp [hj]

@[simp] theorem statusVector_setPort (s : State) (p : Port) (x : PortState) :
    statusVector (s.setPort p x) = statusVector s := by
  cases p <;> rfl

/-- What a firing changes: the watch's port alone (R181, R182). -/
theorem State.fireWatch_spec (s : State) (c : Ctrl) (items : BitVec 16) :
    s.fireWatch c items = s.setPort c.port
      (({ s.port c.port with watch := none } : PortState).enter (.watchFired items (statusVector s))) := by
  unfold State.fireWatch State.raise
  rw [State.port_setPort]
  cases c <;> rfl

/-- What a change offered to the watches fires hangs on the two vectors and the ports alone: the service of a port does not
touch it (R182). -/
theorem State.noted_setService (old s : State) (p : Port) (v : Service) :
    old.noted (s.setService p v) = (old.noted s).setService p v := by
  have h : ∀ (s : State) (c : Ctrl) (before : List Byte),
      State.offerTo c before (s.setService p v) = (State.offerTo c before s).setService p v := by
    intro s c before
    unfold State.offerTo
    rw [show ((s.setService p v).port c.port).watch = (s.port c.port).watch by cases p <;> cases c <;> rfl,
      State.setService, statusVector_setPort]
    cases (s.port c.port).watch with
    | none => rfl
    | some w =>
      simp only
      split
      · unfold State.fireWatch
        rw [statusVector_setPort, show (s.setPort p { s.port p with service := v }).setPort c.port
            { (s.setPort p { s.port p with service := v }).port c.port with watch := none } =
            (s.setPort c.port { s.port c.port with watch := none }).setService p v by
          cases p <;> cases c <;> rfl, State.raise_setService]
      · rfl
  rw [State.noted, h, h, State.noted]

theorem State.port_raise (s : State) (p q : Port) (e : Event) :
    (s.raise p e).port q = if q = p then (s.port p).enter e else s.port q := by
  simp [State.raise, State.port_setPort_cases]

theorem State.raise_spec (s : State) (p : Port) (e : Event) : s.raise p e = { s with ports := (s.raise p e).ports } := by
  apply State.eq_of_fields <;> simp

theorem State.raiseRouted_spec (s : State) (e : Event) :
    s.raiseRouted e = { s with ports := (s.raiseRouted e).ports } := by
  apply State.eq_of_fields <;> simp

/-! ### Frames to a chain -/

@[simp] theorem ChainFrame.forRow_content (k : Nat) (x : FrameContent) : (ChainFrame.forRow k x).content = x := rfl

/-- The check value of a frame is the free value of its row and content (R123, log 8). -/
@[simp] theorem ChainFrame.forRow_check (k : Nat) (x : FrameContent) :
    (ChainFrame.forRow k x).check = Config.chainCheck k x := rfl

/-! ### Timers, rows and the start-up sequence -/

theorem Timer.tick_ticked (x : Timer) : x.ticked x.tick := by
  cases x <;> simp [Timer.ticked, Timer.tick]

theorem LatchTimer.tick_ticked (x : LatchTimer) : x.ticked x.tick := by
  cases x <;> simp [LatchTimer.ticked, LatchTimer.tick]

theorem mem_insertRow (r x : Nat) (l : List Nat) : x ∈ insertRow r l ↔ x = r ∨ x ∈ l := by
  induction l with
  | nil => simp [insertRow]
  | cons a l ih =>
    simp only [insertRow]
    split
    · simp
    · split
      · next h => subst h; simp
      · simp only [List.mem_cons, ih]; tauto

/-- A step of the start-up sequence leaves the queue, the time, the table, the arbiter and the nonvolatile rows and
stored block; and of the power it sets the next step alone (R190). -/
theorem State.startStep_spec (s : State) (straps : Straps) (g : StartStage) :
    (s.startStep straps g).pending = s.pending ∧ (s.startStep straps g).time = s.time ∧
    (s.startStep straps g).table = s.table ∧ (s.startStep straps g).arbiter = s.arbiter ∧
    (s.startStep straps g).store = s.store ∧ (s.startStep straps g).stored = s.stored ∧
    (s.startStep straps g).power = { s.power with startup := match g with
      | .straps => some .configuration
      | .configuration => some .rows
      | .rows => some .lines
      | .lines => some .ports
      | .ports => some .cycles
      | .cycles => none } := by
  cases g with
  | configuration => simp only [State.startStep, State.loadSettings]; split <;> simp
  | lines => simp [State.startStep, State.restoreLines]
  | cycles => simp [State.startStep, allChains, State.startCycle]
  | straps | rows | ports => simp [State.startStep]

/-! ### Authority (chapter 4) -/

/-- A grant: the holder and its silence timer; the wait, if any, stands (R72, R77). -/
theorem State.grant_spec (s : State) (c : Ctrl) :
    (s.grant c).arbiter = { s.arbiter with
      holder := some c, silence := .running (secondsLeft s.settings.holdSilence) } ∧
    s.grant c = { s with arbiter := (s.grant c).arbiter, ports := (s.grant c).ports } := by
  refine ⟨by simp [State.grant], ?_⟩
  apply State.eq_of_fields <;> simp [State.grant]

theorem State.vacate_spec (s : State) :
    s.vacate.arbiter = { s.arbiter with holder := none, silence := .stopped } ∧
    s.vacate = { s with arbiter := s.vacate.arbiter, ports := s.vacate.ports } := by
  refine ⟨by simp [State.vacate], ?_⟩
  apply State.eq_of_fields <;> simp [State.vacate]

theorem State.beginWait_spec (s : State) (c h : Ctrl) :
    (s.beginWait c h).arbiter = { s.arbiter with
      waiting := some c, yield := .running (secondsLeft s.settings.yieldTime) } ∧
    s.beginWait c h = { s with arbiter := (s.beginWait c h).arbiter, ports := (s.beginWait c h).ports } := by
  refine ⟨by simp [State.beginWait], ?_⟩
  apply State.eq_of_fields <;> simp [State.beginWait]

/-- Emptying a buffer leaves its target row and column, and the other port's buffer (R87). -/
theorem State.emptyStaging_spec (s : State) (c : Ctrl) :
    ((s.emptyStaging c).staging c).row = (s.staging c).row ∧
    ((s.emptyStaging c).staging c).column = (s.staging c).column ∧
    (∀ k : Fin 16, ((s.emptyStaging c).staging c).cells[k] = 0x20 ∧
      ((s.emptyStaging c).staging c).loaded[k] = false) ∧
    (s.emptyStaging c).staging c.other = s.staging c.other ∧
    s.emptyStaging c = { s with store := { s.store with
      staging0 := (s.emptyStaging c).store.staging0, staging1 := (s.emptyStaging c).store.staging1 } } := by
  cases c <;>
    simp [State.emptyStaging, State.setStaging, State.staging, Staging.emptied, Ctrl.other]

/-! ### Clock lines (chapter 9) -/

theorem State.setLine_spec (s : State) (l : Line) (r : LineRecord) :
    (s.setLine l r).clock = { s.clock with lines := put s.clock.lines l r } ∧
    s.setLine l r = { s with clock := (s.setLine l r).clock, ports := (s.setLine l r).ports } := by
  refine ⟨by simp [State.setLine], ?_⟩
  apply State.eq_of_fields <;> simp [State.setLine]

@[simp] theorem State.setLine_retention (s : State) (l : Line) (r : LineRecord) :
    (s.setLine l r).retention = s.retention := by simp [State.setLine]

@[simp] theorem State.setLine_settings (s : State) (l : Line) (r : LineRecord) :
    (s.setLine l r).settings = s.settings := by simp [State.setLine]

/-- What an evaluation of a line leaves: every other line and entry, and all of the part but the driver, the retention
area and the ports (R158). -/
theorem State.evaluateLine_frame (s : State) (l : Line) :
    (∀ j : Line, j ≠ l → (s.evaluateLine l).clock.lines[j] = s.clock.lines[j] ∧
      (s.evaluateLine l).retention.entries[j] = s.retention.entries[j]) ∧
    (s.evaluateLine l).clock = { s.clock with lines := (s.evaluateLine l).clock.lines } ∧
    s.evaluateLine l = { s with
      clock := (s.evaluateLine l).clock, retention := (s.evaluateLine l).retention
      ports := (s.evaluateLine l).ports } := by
  have hs : ∀ (s : State) (r : LineRecord), (∀ j : Line, j ≠ l →
      (s.setLine l r).clock.lines[j] = s.clock.lines[j] ∧ (s.setLine l r).retention.entries[j] = s.retention.entries[j]) ∧
      (s.setLine l r).clock = { s.clock with lines := (s.setLine l r).clock.lines } ∧
      s.setLine l r = { s with
        clock := (s.setLine l r).clock, retention := (s.setLine l r).retention, ports := (s.setLine l r).ports } := by
    intro s r
    refine ⟨fun j hj => ⟨?_, by rw [State.setLine_retention]⟩, by rw [(State.setLine_spec s l r).1], ?_⟩
    · rw [(State.setLine_spec s l r).1]; simp [put_get, hj]
    · apply State.eq_of_fields <;> simp [State.setLine]
  unfold State.evaluateLine
  simp only []
  split
  · split
    · cases s.clock.lines[l].shown with
      | none => exact ⟨fun _ _ => ⟨rfl, rfl⟩, rfl, rfl⟩
      | some m =>
        simp only [State.settleLine]
        split
        · refine ⟨fun j hj => ?_, ?_, ?_⟩
          · simp [State.startImpulse, (State.setLine_spec _ _ _).1, put_get, hj, State.retain]
          · simp [State.startImpulse, (State.setLine_spec _ _ _).1]
          · apply State.eq_of_fields <;> simp [State.startImpulse, State.setLine]
        · exact hs _ _
    · exact hs _ _
  · exact ⟨fun _ _ => ⟨rfl, rfl⟩, rfl, rfl⟩

/-- What an evaluation of a line makes of that line (R158, R160). -/
theorem State.evaluateLine_spec (s : State) (l : Line) :
    ((s.clock.lines[l].state.evaluable = false ∨ s.clock.lines[l].impulse ≠ none) → s.evaluateLine l = s) ∧
    (s.clock.lines[l].state.evaluable = true → s.clock.lines[l].impulse = none → s.clock.clockSet = false →
      (s.evaluateLine l).clock.lines[l] = { s.clock.lines[l] with state := .noTime }) ∧
    (∀ m v due, s.clock.lines[l].state.evaluable = true → s.clock.lines[l].impulse = none → s.clock.clockSet = true →
      s.clock.lines[l].shown = some m →
      dialCase s.settings.lines[l].wait (dialDifference s.dialTarget m) = (v, due) →
      ((due = false ∨ s.clock.lines[l].spacing.allows = false) →
        (s.evaluateLine l).clock.lines[l] = { s.clock.lines[l] with state := v } ∧
        (s.evaluateLine l).retention = s.retention) ∧
      (due = true → s.clock.lines[l].spacing.allows = true →
        (s.evaluateLine l).clock.lines[l] = { s.clock.lines[l] with
          state := v, impulse := some ⟨s.clock.lines[l].polarity, s.settings.lines[l].width⟩
          spacing := .running (secondsLeft s.settings.lines[l].fast) } ∧
        (s.evaluateLine l).retention.entries[l] = ⟨m, s.clock.lines[l].polarity, true⟩)) := by
  refine ⟨fun h => ?_, fun h1 h2 h3 => ?_, fun m v due h1 h2 h3 h4 h5 => ⟨fun h => ?_, fun h h' => ?_⟩⟩
  · unfold State.evaluateLine
    rcases h with h | h
    · simp [show s.clock.lines[l.val].state.evaluable = false from h]
    · simp [show s.clock.lines[l.val].impulse ≠ none from h]
  · unfold State.evaluateLine
    simp only [h1, h2, h3]
    simp [(State.setLine_spec _ _ _).1]
  · unfold State.evaluateLine
    simp only [h1, h2, h3, h4, h5, State.settleLine]
    rcases h with h | h <;> simp only [h, Bool.false_eq_true, false_and, and_false, if_false] <;>
      simp [(State.setLine_spec _ _ _).1]
  · unfold State.evaluateLine
    simp only [h1, h2, h3, h4, h5, h, h', State.settleLine]
    simp [State.startImpulse, (State.setLine_spec _ _ _).1, State.retain, LineRecord.entry]

/-- A line's record replaced with its impulse as it was changes that line alone, and no retention entry (R158, R163). -/
theorem State.setLine_changesLine (s : State) (l : Line) (r : LineRecord) (h : r.impulse = s.clock.lines[l].impulse) :
    s.changesLine (s.setLine l r) l ∧ (s.setLine l r).retention = s.retention := by
  obtain ⟨c, f⟩ := State.setLine_spec s l r
  have hr := State.setLine_retention s l r
  have hi : (s.setLine l r).clock.lines[l].impulse = s.clock.lines[l].impulse := by rw [c]; simpa [put_get] using h
  refine ⟨⟨fun j hj => ⟨by rw [c]; simp [put_get, hj], by rw [hr]⟩, ?_, fun _ => hr, fun h => absurd hi h⟩, hr⟩
  apply State.eq_of_fields <;> simp [State.setLine]

/-- An evaluation changes its line alone, and the retention area only by the entry of an impulse it starts (R158, R163). -/
theorem State.evaluateLine_changesLine (s : State) (l : Line) : s.changesLine (s.evaluateLine l) l := by
  obtain ⟨f1, f2, f3⟩ := State.evaluateLine_frame s l
  refine ⟨f1, by conv_lhs => rw [f3, f2], ?_⟩
  unfold State.evaluateLine
  simp only []
  split
  · next hb =>
    split
    · cases s.clock.lines[l].shown with
      | none => exact ⟨fun _ => rfl, fun h => absurd rfl h⟩
      | some m =>
        simp only [State.settleLine]
        split
        · refine ⟨fun h => absurd (h.trans hb.2) ?_, fun _ => ?_⟩
          · simp [State.startImpulse, (State.setLine_spec _ _ _).1]
          · simp [State.startImpulse, State.retain]
        · refine (State.setLine_changesLine s l _ ?_).1.2.2; rfl
    · refine (State.setLine_changesLine s l _ ?_).1.2.2; rfl
  · exact ⟨fun _ => rfl, fun h => absurd rfl h⟩

/-- A line turned off: that line alone, and no retention entry (R163, R165). -/
theorem State.turnOff_changesLine (s : State) (l : Line) :
    s.changesLine (s.turnOff l) l ∧ (s.turnOff l).retention = s.retention := by
  unfold State.turnOff
  simp only []
  split
  · exact ⟨⟨fun _ _ => ⟨rfl, rfl⟩, rfl, fun _ => rfl, fun h => absurd rfl h⟩, rfl⟩
  · split <;> refine State.setLine_changesLine s l _ ?_ <;> rfl

/-- One change of a line after another that keeps its impulse and writes no entry is one change of it. -/
theorem State.changesLine.trans {s u t : State} {l : Line} (h : s.changesLine u l)
    (hi : u.clock.lines[l].impulse = s.clock.lines[l].impulse) (h' : u.changesLine t l) : s.changesLine t l := by
  refine ⟨fun j hj => ⟨(h'.1 j hj).1.trans (h.1 j hj).1, (h'.1 j hj).2.trans (h.1 j hj).2⟩, ?_, fun e => ?_, fun e => ?_⟩
  · rw [h'.2.1, h.2.1]
  · exact (h'.2.2.1 (e.trans hi.symm)).trans (h.2.2.1 hi)
  · exact h'.2.2.2 fun e' => e (e'.trans hi)

/-! ### Cues (chapter 8) -/

theorem Cues.queue_setQueue (c : Cues) (j k : CueClass) (q : List Cue) :
    (c.setQueue k q).queue j = if j = k then q else c.queue j := by
  cases j <;> cases k <;> rfl

/-- An append: the tail of its class queue, and events at the Cue Port alone (R140). -/
theorem State.appendCue_spec (s : State) (q : Cue) :
    (s.appendCue q).cues = s.cues.setQueue q.kind.cls (s.cues.queue q.kind.cls ++ [q]) ∧
    s.appendCue q = { s with cues := (s.appendCue q).cues, ports := (s.appendCue q).ports } ∧
    (q.kind ≠ .notice → s.cues.playing ≠ none → (s.appendCue q).ports = s.ports) ∧
    (q.kind ≠ .notice → s.cues.playing = none → (s.appendCue q).ports = (s.raise .cp .cueReady).ports) := by
  have hp : ∀ k l, (s.cues.setQueue k l).playing = s.cues.playing := fun k l => by cases k <;> rfl
  refine ⟨?_, ?_, fun h1 h2 => ?_, fun h1 h2 => ?_⟩
  · unfold State.appendCue; simp only []; split <;> split <;> simp
  · unfold State.appendCue; simp only []; apply State.eq_of_fields <;> (split <;> split <;> simp)
  · have : s.cues.playing.isNone = false := by cases h : s.cues.playing <;> simp_all
    simp [State.appendCue, h1, hp, this]
  · simp [State.appendCue, h1, hp, h2, State.raise, State.setPort, State.port]

/-- A drop changes the drop counters and the ports alone (R139). -/
theorem State.dropCue_spec (s : State) (k : CueClass) :
    (s.dropCue k).cues = s.cues.countDrop k ∧ (∀ j, (s.cues.countDrop k).queue j = s.cues.queue j) ∧
    s.dropCue k = { s with cues := (s.dropCue k).cues, ports := (s.dropCue k).ports } := by
  refine ⟨by simp [State.dropCue], fun j => by cases j <;> cases k <;> rfl, ?_⟩
  apply State.eq_of_fields <;> simp [State.dropCue]

/-- Superseding sets the flag of the playing cue once, and leaves everything else but the Cue Port (R142). -/
theorem State.supersedeIf_spec (s : State) (p : Cue → Bool) :
    (∀ x, s.cues.playing = some x → p x.cue = true → x.superseded = false →
      s.supersedeIf p = ({ s with cues := { s.cues with playing := some { x with superseded := true } } } : State).raise
        .cp (.cueSuperseded x.cue.handle)) ∧
    ((∀ x, s.cues.playing = some x → p x.cue = false ∨ x.superseded = true) → s.supersedeIf p = s) := by
  refine ⟨fun x h1 h2 h3 => by simp [State.supersedeIf, h1, h2, h3], fun h => ?_⟩
  unfold State.supersedeIf
  split
  · rfl
  · next x hx => rcases h x hx with h | h <;> simp [h]

/-! ### Deliveries of the Time Base (chapter 1) -/

/-- A delivery reaches the four blocks' inboxes, the rollover and the ports, and nothing else (R3, R4). -/
theorem deliver_frame (ds : List Delivery) (s : State) :
    deliver ds s = { s with
      table := { s.table with inbox := (deliver ds s).table.inbox }
      composer := { s.composer with inbox := (deliver ds s).composer.inbox }
      cues := { s.cues with minutes := (deliver ds s).cues.minutes }
      clock := { s.clock with inbox := (deliver ds s).clock.inbox }
      time := { s.time with rollover := (deliver ds s).time.rollover, outbox := (deliver ds s).time.outbox }
      ports := (deliver ds s).ports } := by
  induction ds generalizing s with
  | nil => rfl
  | cons d ds ih =>
    cases d with
    | rollover => rfl
    | minute n =>
      simp only [deliver]; rw [ih]; rfl
    | event e =>
      simp only [deliver]; rw [ih]; apply State.eq_of_fields <;> simp
    | reply c =>
      simp only [deliver]; rw [ih]; apply State.eq_of_fields <;> simp

end Sys2Proof.Machine
end

