-- ==== Sys2Proof/Tests/Slice0.lean ====
section
/-! SUPPORT. The model's own tests: the well-formedness smoke tests, worked examples of the spec, one step each, and for
every obligation with hypotheses a concrete state that meets them, clause by clause. -/

namespace Sys2Proof.Tests

open Sys2Proof.Machine

-- One proof at a time: proofs elaborated side by side, each waiting for the kernel, take a thread each.
set_option Elab.async false

/-! ### Helpers -/

/-- The part after its first start-up would leave the reset, every block still in its after-reset state. -/
def live : State := { State.reset with power := ⟨false, none, true, true⟩ }

/-- The part released from the reset, its ports not open yet. -/
def shut : State := { live with power := ⟨false, some .lines, true, true⟩ }

/-- A port's command waits for its block. -/
def asked (p : Port) (code : Byte) (payload : List Byte) (s : State) : State :=
  s.setService p (.serving code payload .waiting)

/-- P0 holds update authority. -/
def owned : State := { live with arbiter := ⟨some .p0, none, .stopped, .running 10240000⟩ }

/-- A command of the holder waits. -/
def own (code : Byte) (payload : List Byte) : State := asked .p0 code payload owned

/-- The service code A1 in 9 bytes (10.8). -/
def codeA1 : List Byte := [2, 0x41, 0x31, 0x20, 0x20, 0x20, 0x20, 0x20, 0x20]

def ref0 : TextRef := ⟨0, 10, by decide⟩

/-- A record of code A1 at minute 600, with a platform and every kind in its mask. -/
def record : Record where
  code := [0x41, 0x31]
  state := .waiting
  sched := 600
  expected := none
  clamped := false
  platform := some 4
  previous := none
  destination := ref0
  via := none
  remark := none
  sector := 0
  mask := 31
  callIssued := false
  closingIssued := false
  lastDelay := none
  conflict := false

/-- A state whose slot 5 holds one record. -/
def with5 (r : Record) (s : State) : State :=
  { s with table := { s.table with slots := put s.table.slots 5 (some r), order := [5] } }

/-- A running time at a second, with a given next minute due or not. -/
def atSecond (second : Nat) (due : Bool) : State :=
  { live with time := { live.time with state := .running, second := second, completionDue := due } }

/-- A cue of slot 5. -/
def cue (k : CueKind) (h : Nat) : Cue where
  handle := h
  kind := k
  slot := if k = .notice then none else some 5
  code := [0x41, 0x31]
  platform := some 4
  previous := none
  effective := some 600
  delay := some 6
  destination := some ref0
  remark := none
  text := none
  repeats := 1
  issued := 590

def withCues (f : Cues → Cues) (s : State) : State := { s with cues := f s.cues }

/-- A line's record replaced. -/
def withLine (l : Line) (r : LineRecord) (s : State) : State :=
  { s with clock := { s.clock with lines := put s.clock.lines l r } }

/-- A line in step at dial minute m. -/
def lineAtMinute (m : Nat) (spacing : LatchTimer) : LineRecord := ⟨.inStep, some m, .positive, none, false, spacing⟩

/-- A link replaced. -/
def withLink (f : Link → Link) (s : State) : State := s.setLink 1 (f s.links[1])

def withView (f : ChainView → ChainView) (s : State) : State := s.setView 1 (f s.composer.views[1])

/-- A frame for the part with unit 0 (10.2, 10.8). -/
def frame (body : List Byte) : List Byte := [0xA5] ++ body ++ be16 (crc16 body).toNat

/-! ### Well-formedness refuses an ill-formed command -/

theorem test_refuses_module_row_0 : (Instr.moduleAnswer 0 0 .ok true).wellFormed = false := by decide
theorem test_refuses_module_row_13 : (Instr.moduleAnswer 0 13 .ok true).wellFormed = false := by decide
theorem test_accepts_module_row_12 : (Instr.moduleAnswer 0 12 .ok true).wellFormed = true := by decide
theorem test_refuses_text_row_512 : (Instr.rowStorageFault 512).wellFormed = false := by decide

/-! ### Worked values of the spec, one step each -/

/-- The state a command leaves. -/
def after (c : Instr) (s : State) : State :=
  match exec c s with
  | .next t => t
  | .fault _ => s
  | .refused _ => s

/-- The check value known for this polynomial and initial value over the characters 1 to 9 (not in the spec). -/
theorem test_crc : crc16 [0x31, 0x32, 0x33, 0x34, 0x35, 0x36, 0x37, 0x38, 0x39] = 0x29B1#16 := by decide +kernel

/-- A packed code: I is 9, C is 3, then 5, 1, 2 as 32, 28, 29, the first in the highest 6 bits (10.8), by hand. -/
theorem test_pack : packCode [0x49, 0x43, 0x35, 0x31, 0x32] = [0x24, 0x38, 0x1C, 0x74, 0x00, 0x00] := by decide +kernel

/-- The five captures of 1.4's worked cases. -/
theorem test_pulse_errors : [1280, 59904, 5120, 30720, 61416].map pulseError = [1280, -1536, 5120, -30720, -24] := by
  decide +kernel

/-- 1.4: the pulse at S modulo 60 = 1, F = 256 gives Q = -1280. -/
theorem test_minute_pulse : (after .minutePulse
    { live with time := { live.time with state := .running, second := 61, tick := 256 } }).time.slew = -1280 := by
  decide +kernel

/-- 1.4: with Q = -1280 the next second begins lengthened by 16. -/
theorem test_second_completion : (after .secondCompletion
    { live with time := { live.time with
        state := .running, second := 61, tick := 1023, slew := -1280, completionDue := true } }).time.adjustment =
    .lengthened 16 := by
  decide +kernel

/-- 1.5: SET TIME 22:05:10 against S = 66025 gives S = 65110 and HOLDING at minute 1100. -/
theorem test_set_time_holds :
    let s := after (.setTime .p0) (asked .p0 codeSetTime [1, 0x36, 0x96]
      { owned with time := { live.time with state := .running, second := 66025 } })
    (s.time.second, s.time.state) = (65110, .holding 1100) := by
  decide +kernel

/-- 1.5: SET TIME 04:02:00 at S = 86300 steps over the end of the day: S = 120, the rollover begun. -/
theorem test_set_time_rolls_over :
    let s := after (.setTime .p0) (asked .p0 codeSetTime [0, 0x38, 0xB8]
      { owned with time := { live.time with state := .running, second := 86300 } })
    (s.time.second, s.table.inbox, s.time.rollover) = (120, [.rebase], some .table) := by
  decide +kernel

/-- Chapter 3, worked cases: D of LX204 with the forecast 1140 is 30, its countdown at 1118 is "22 m", its time text 22:30. -/
theorem test_display_values :
    let r := { record with sched := 1110, expected := some 1140 }
    (r.delay, countdownText defaultSettings true 1118 r, timeText defaultSettings r) =
      (30, some [0x32, 0x32, 0x20, 0x6D], [0x32, 0x32, 0x3A, 0x33, 0x30]) := by
  decide +kernel

/-- Chapter 3, worked cases: the forecast 1000 for s = 1110 is stored as 1110 and clamped. -/
theorem test_clamped : storedTime 1110 (some 1000) = (some 1110, true) := by decide

/-- Chapter 3, worked cases, the forward step to 1125: slot 9, E 1124, goes CLOSING without a CLOSING cue. -/
theorem test_closing_without_cue :
    let e := evaluate defaultSettings true 1125 { record with sched := 1124 }
    (e.record.map Record.state, e.issue) = (some .closing, none) := by
  decide +kernel

/-- Chapter 3, worked cases, the forward step to 1125: slot 7, E 1110, goes GONE. -/
theorem test_gone : (evaluate defaultSettings true 1125 { record with sched := 1110 }).record.map Record.state =
    some (.gone 1125) := by
  decide +kernel

/-- Chapter 4, worked sequence: both servers request from FREE and PRI names P1: P1 holds, P0 waits. -/
theorem test_both_request :
    let s := after (.requestAuthority .p0) (asked .p0 codeRequestAuthority [] (asked .p1 codeRequestAuthority []
      { live with ident := { live.ident with straps := { live.ident.straps with pri := true } } }))
    (s.arbiter.holder, s.arbiter.waiting, s.ports.p0.reply, s.ports.p1.reply) =
      (some .p1, some .p0, some ⟨.pending, []⟩, some ⟨.done, []⟩) := by
  decide +kernel

/-- Chapter 5, worked sequence: LOAD TEXT of 16 codes with advance YES at row 120, END, stands at row 121, END. -/
theorem test_load_text :
    (after (.loadText .p0) { own codeLoadText (1 :: List.replicate 16 0x41) with
      store := { live.store with staging0 := { Staging.reset with row := 120, column := .atEnd } } }).ports.p0.reply =
    some ⟨.done, [0, 121, 16]⟩ := by
  decide +kernel

/-- Chapter 6, worked example: the time, destination with via, platform and remark fields of the worked LIST row. -/
theorem test_platform_field : platformField { record with platform := some 7 } = [0x20, 0x37] := by decide

/-- Chapter 7, worked example: the third missed answer in a row of row 10 sets the fault flag and counts 1. -/
theorem test_third_miss :
    let s := after (.answerWindowExpiry 1) (withLink (fun l => { l with
      state := .answerWait 10 ⟨.repeated, []⟩, rowCount := 10, modules := put l.modules 9 ⟨.absent, 2⟩ }) live)
    (s.links[1].fault, s.links[1].absent, s.links[1].state) = (true, 1, .ended) := by
  decide +kernel

/-- Chapter 8, worked example: fetch 5 of the worked example reloads the credits and takes a DELAY cue, leaving 4, 1, 1. -/
theorem test_weighted_reload :
    let s := after .fetchCue (asked .cp codeFetchCue [] (withCues (fun c => { c with
      delay := [cue .delay 3], routine := [cue .call 4]
      creditPlatform := 3, creditDelay := 0, creditRoutine := 0 }) live))
    (s.cues.playing.map fun p => p.cue.handle, s.cues.creditPlatform, s.cues.creditDelay, s.cues.creditRoutine) =
      (some 3, 4, 1, 1) := by
  decide +kernel

/-- Chapter 8, worked example: the refresh with platform 11 supersedes the playing CLOSING cue that carries platform 9. -/
theorem test_superseded :
    (after .cueRefresh (withCues (fun c => { c with
      playing := some ⟨{ cue .closing 17 with platform := some 9 }, false, 1⟩
      inbox := [.notice (.refresh ⟨5, some 11, 600, 0, none⟩) none] }) live)).ports.cp.events = [.cueSuperseded 17] := by
  decide +kernel

/-- Chapter 9, worked example: at minute 345 the dial at 480 is 105 behind: CATCHING, an impulse in flight. -/
theorem test_catching :
    let s := after .clockMinuteEvent (withLine 1 { lineAtMinute 480 .stopped with polarity := .negative }
      { live with clock := { live.clock with inbox := [345] } })
    (s.clock.lines[1].state, s.clock.lines[1].impulse) = (.catching, some ⟨.negative, 500⟩) := by
  decide +kernel

/-- Chapter 9, worked example: at minute 345 the dial at 630 is 45 minutes ahead: WAITING. -/
theorem test_waiting :
    (after .clockMinuteEvent (withLine 2 (lineAtMinute 630 .stopped)
      { live with clock := { live.clock with inbox := [345] } })).clock.lines[2].state = .waiting := by
  decide +kernel

/-- Chapter 10, worked sequence: READ EVENT of CHAIN_FAULT (W2, row 7) answers code 11 with none left. -/
theorem test_read_event :
    (after (.readEvent .p1) (asked .p1 codeReadEvent [] { live with ports := { live.ports with
      p1 := { PortState.reset with events := [.chainFault 2 7], attention := true } } })).ports.p1.reply =
    some ⟨.done, [11, 0, 2, 7]⟩ := by
  decide +kernel

/-- 11.2: READ CONFIG ITEM of CALL LEAD at its default answers tag, length, 15. -/
theorem test_read_item :
    (after (.readConfigItem .p0) (asked .p0 codeReadConfigItem [0x11] live)).ports.p0.reply =
    some ⟨.done, [0x11, 1, 15]⟩ := by
  decide +kernel

/-- A frame of READ TIME for unit 0 is taken for service (10.2). -/
theorem test_frame :
    (after (.frameReceived .p0 (frame [0, 0, codeReadTime])) live).ports.p0.service =
    .serving codeReadTime [] .waiting := by
  decide +kernel

/-- Position 7 holds a notice. -/
def noticed : State :=
  { live with composer := { live.composer with notices := put live.composer.notices 7 (some ⟨ref0, 3, none⟩) } }

/-- A delayed record with a remark. -/
def delayed : State := with5 { record with expected := some 605, remark := some ref0 } live

/-- R117: a remark that shows nothing leaves its space: 5 + 1 + 18 + 1 + 0 = 25 characters, 2 parts on a width of 24. -/
theorem test_automatic_parts :
    partCount 24 (noticeText { with5 { record with destination := ⟨0, 18, by decide⟩, remark := some ⟨2, 10, by decide⟩ }
      live with store := { live.store with cells := (List.range 18).map fun a => (a, 0x41) } }
        (.automatic 5 [0x41, 0x31])) = 2 := by
  decide +kernel

/-- 10.8, R134: the fetched remark of a CALL cue is 0; that of a DELAY cue without one has length 0. -/
theorem test_absent_remark :
    (cue .call 1).remarkBytes = [0, 0, 0] ∧ (cue .delay 1).remarkBytes.getLast? = some 0 := by
  refine ⟨rfl, ?_⟩; simp [Cue.remarkBytes, cue]

/-- R68: "Exp" and the civil time of E, from a delay of ON TIME TOLERANCE on. -/
theorem test_expected_text :
    (expectedText defaultSettings { record with sched := 1110, expected := some 1140 },
      expectedText defaultSettings { record with sched := 1110, expected := some 1111 }) =
    (some [0x45, 0x78, 0x70, 0x20, 0x32, 0x33, 0x3A, 0x30, 0x30], none) := by
  decide +kernel

/-- R176: the reply DONE of port P0 of the unit 5 is sent with 5 in UNIT, LEN 0 and the status 00 in place of CMD. -/
theorem test_sent_frame :
    ((({ live with ident := { live.ident with straps := { live.ident.straps with unit := 5 } } } : State).setService .p0
      (.serving codeSetSector [] (.replied ⟨.done, []⟩))).sentFrame .p0).map (List.take 4) = some [0xA5, 5, 0, 0] := by
  decide +kernel

/-- R190: CONFIG_DEFAULTED is in P0's set before the ports open, and its attention line stays RELEASED until they do. -/
theorem test_attention_waits_for_the_opening :
    let s := after (.resetEnd ⟨⟨0, false, false, false, false⟩, .lines⟩) State.reset
    let t := after (.resetEnd ⟨⟨0, false, false, false, false⟩, .ports⟩) s
    ((s.port .p0).events, s.attentionLine .p0, t.attentionLine .p0) = ([.configDefaulted], false, true) := by
  decide +kernel

/-- R190: a reset in the midst of the sequence abandons it: it begins again with its first step. -/
theorem test_reset_abandons_start_up :
    (after (.hardwareReset .resetInput) (after (.resetEnd ⟨⟨0, false, false, false, false⟩, .rows⟩) State.reset)).power =
      ⟨true, some .straps, true, true⟩ := by
  decide +kernel

/-- R121, row 7, SET NOTICE first: the expiry that was due still moves the cursor on, from part 0. -/
theorem test_notice_then_expiry :
    let s := withView (fun v => { v with
      plan := defaultPlan true, cursor := some ⟨.position 7, 2⟩, partTimer := .running 0 })
      { noticed with arbiter := owned.arbiter }
    let t := after (.partTimerExpiry 1) (after (.setNotice .p0) (asked .p0 codeSetNotice [7, 0, 0, 16, 3, 0x80, 0] s))
    (t.composer.views[1].cursor, t.composer.views[1].partOwed) = (some ⟨.position 7, 0⟩, false) := by
  decide +kernel

/-! ### Witnesses: concrete states that meet the hypotheses of the obligations, clause by clause -/

theorem witness_StepRunsTheFrontCommand :
    ({ live with pending := [.minutePulse, .cueIssue] } : State).pending = .minutePulse :: [.cueIssue] := rfl

theorem witness_OnlyStepTakesFromTheQueue : live.pending = [] ∧ ∃ t, exec .minutePulse live = .next t := ⟨rfl, _, rfl⟩

theorem witness_OnlyAnAbsentRowStops : (Instr.rowStorageFault 511).wellFormed = true ∧ 511 < 512 := by decide

theorem witness_HeldPartTakesNoCommand :
    State.reset.power.held = true ∧ (Instr.frameReceived .p0 []).actsWhileHeld = false ∧
    shut.power.operates = false ∧ (Instr.frameReceived .p0 []).actsBeforeOpening = false ∧
    ({ live with power := ⟨false, some .ports, true, true⟩ } : State).power.operates = false ∧
    ({ live with power := ⟨false, some .cycles, true, true⟩ } : State).power.operates = true := by
  decide

/-- Two records of one minute: A1 in slot 5 and B2 in slot 95. -/
def board (s : State) : State :=
  { s with table := { s.table with
      slots := put (put s.table.slots 5 (some record)) 95 (some { record with code := [0x42, 0x32] })
      order := [5, 95] } }

/-- A running part with a tick in front of its queue, a cue pending, two records and two events at P0. -/
def ticking : State := board (withCues (fun c => { c with routine := [cue .call 1] }) { owned with
  pending := [.tickArrival]
  ports := { live.ports with p0 := { PortState.reset with
    events := [.authorityExpired, .dayRollover], attention := true } } })

theorem witness_invariants :
    (ticking.textCanonical ∧ ticking.attentionFollows ∧ ticking.eventsAscending ∧ ticking.queuesBounded ∧
      ticking.waitSound ∧ ticking.listSound ∧ ticking.listSorted) ∧ ∃ t, step ticking = .next t := by
  refine ⟨⟨rfl, fun p => ?_, fun p => ?_, fun k => ?_, ⟨fun w h => ?_, ?_, ?_⟩, ⟨?_, fun i => ?_⟩, ?_⟩, _, rfl⟩
  · cases p <;> rfl
  · cases p <;> decide
  · cases k <;> decide
  · cases w <;> exact absurd h (by decide)
  · decide
  · decide
  · decide
  · revert i; decide +kernel
  · have h : ∀ a b : Record, ticking.table.slots[(5 : Slot)] = some a → ticking.table.slots[(95 : Slot)] = some b →
        a = record ∧ b = { record with code := [0x42, 0x32] } := fun a b ha hb => by
      have h5 : ticking.table.slots[(5 : Slot)] = some record := by decide +kernel
      have h95 : ticking.table.slots[(95 : Slot)] = some { record with code := [0x42, 0x32] } := by decide +kernel
      exact ⟨Option.some.inj (ha.symm.trans h5), Option.some.inj (hb.symm.trans h95)⟩
    refine .cons (fun j hj a b ha hb => ?_) (.cons (fun _ hj => absurd hj List.not_mem_nil) .nil)
    obtain rfl := List.mem_singleton.1 hj
    obtain ⟨rfl, rfl⟩ := h a b ha hb
    decide +kernel

theorem witness_ResetsSuppliesAndStorageFaults :
    ({ live.store with engine := some ⟨.config defaultSettings, .p1⟩ } : TextStore).engine =
      some ⟨.config defaultSettings, .p1⟩ ∧
    ({ live.store with engine := some ⟨.row 511 (List.replicate 16 0x41), .p1⟩ } : TextStore).engine =
      some ⟨.row 511 (List.replicate 16 0x41), .p1⟩ ∧ live.store.engine = none ∧ live.power.main = true ∧
    -- both supplies absent, the second one lost last
    ({ live with power := ⟨true, some .straps, false, true⟩ } : State).power.main = false ∧
    511 ≤ 511 ∧ 8175 / 16 ≠ 511 ∧ 8176 / 16 = 511 := ⟨rfl, rfl, rfl, rfl, rfl, by decide⟩

theorem witness_ChecksRefuseInOrder :
    ((asked .p1 codeSetNotice [8] owned).commanded .p1 codeSetNotice [8] ∧ owned.arbiter.holder ≠ some .p1 ∧
      (own codeClearNotice [8]).commanded .p0 codeClearNotice [8] ∧ owned.arbiter.holder = some .p0 ∧
      (asked .p1 codeReadList [0] live).commanded .p1 codeReadList [0] ∧
      (asked .cp codeReadTextRow [2, 0] live).commanded .cp codeReadTextRow [2, 0] ∧
      (asked .cp codeFetchCue [1] live).commanded .cp codeFetchCue [1] ∧
      (own codeCancelDeparture codeA1).commanded .p0 codeCancelDeparture codeA1 ∧
      (asked .p1 codeReadRecord [1, 95] live).commanded .p1 codeReadRecord [1, 95]) ∧
    ((parsePosition [8]).isSome = false ∧ (parsePosition [7]).isSome = true ∧ (parseStart [0]).isSome = false ∧
      (parseStart [97]).isSome = false ∧ (parseRow [2, 0]).isSome = false ∧ ([1] : List Byte).isEmpty = false ∧
      parseCode codeA1 = some [0x41, 0x31] ∧ (∀ j : Slot, live.table.slots[j] = none) ∧
      parseRecordName [1, 95] = some (.slot 95) ∧ parseRecordName (0 :: codeA1) = some (.code [0x41, 0x31])) := by
  refine ⟨⟨⟨rfl, rfl⟩, by decide, ⟨rfl, rfl⟩, rfl, ⟨rfl, rfl⟩, ⟨rfl, rfl⟩, ⟨rfl, rfl⟩, ⟨rfl, rfl⟩, rfl, rfl⟩,
    by decide +kernel⟩

theorem witness_StartUpRunsTheSequence :
    State.reset.power.held = true ∧ State.reset.power.main = true ∧ State.reset.stored.intact = false ∧
    State.reset.retention.valid = false ∧
    ({ State.reset with stored := ⟨[0, 0] ++ be16 (crc16 [0, 0]).toNat, false⟩ } : State).stored.intact = true ∧
    ({ State.reset with retention := ⟨#v[⟨719, .negative, false⟩, ⟨0, .positive, true⟩, ⟨0, .positive, true⟩,
      ⟨0, .positive, true⟩], true⟩ } : State).retention.entries[0].inFlight = false ∧
    ({ State.reset with power := ⟨true, some .straps, false, true⟩ } : State).power.main = false ∧
    live.power.held = false ∧ live.power.startup = none := by
  decide +kernel

/-- A running time with F at a tick. -/
def atTick (tick : Nat) : State := { live with time := { live.time with state := .running, tick := tick } }

theorem witness_TickArrivalCountsOneTick :
    (live.released ∧ shut.released ∧ live.time.completionDue = false ∧ live.time.state = .unset) ∧
    ((atTick 1022).time.state ≠ .unset ∧ (atTick 1022).time.tick + 1 ≤ 1023) ∧
    (1023 < (atTick 1023).time.tick + 1) ∧ owned.arbiter.silence = .running 10240000 ∧
    (withLine 2 (lineAtMinute 0 (.running 999)) live).clock.lines[2].spacing = .running 999 ∧
    (withView (fun v => { v with pageTimer := .runOut, partTimer := .running 1000 }) live).composer.views[
      (1 : Chain)].pageTimer = .runOut ∧
    (withView (fun v => { v with pageTimer := .runOut, partTimer := .running 1000 }) live).composer.views[
      (1 : Chain)].partTimer = .running 1000 := by
  refine ⟨⟨rfl, rfl, rfl, rfl⟩, ?_⟩; decide +kernel

theorem witness_SecondCompletionAdvancesTrueTime :
    ((atSecond 86399 true).released ∧ (atSecond 86399 true).time.completionDue = true ∧
      (atSecond 86399 true).time.state ≠ .unset ∧ (atSecond 86399 true).time.rollover = none) ∧
    ({ (atSecond 59 true) with time := { (atSecond 59 true).time with rollover := some .table } }).time.rollover =
      some .table ∧
    (59 + 1) / 60 ≠ 59 / 60 ∧ (58 + 1) / 60 = 58 / 60 ∧
    ({ (atSecond 59 true) with time := { (atSecond 59 true).time with state := .holding 1, slew := -16 } }).time.state =
      .holding 1 := by
  refine ⟨⟨rfl, rfl, by decide, rfl⟩, rfl, ?_⟩; decide

/-- A running time in LOCKED at a second and tick, its last accepted pulse 50 s ago. -/
def locked (second tick : Nat) : State :=
  { live with time := { live.time with
      state := .running, ref := .locked, second := second, tick := tick, pulseInterval := some 51200 } }

theorem witness_PulseWithinTheLimitSetsTheSlew :
    ((locked 2 0).released ∧ (locked 2 0).time.state ≠ .unset ∧ (locked 2 0).time.ref = .locked ∧
      (locked 2 0).time.pulseInterval = some 51200) ∧
    ((locked 2 0).time.second % 60 * 1024 + (locked 2 0).time.tick = 2048 ∧ (2048 : Int).natAbs ≤
      (locked 2 0).settings.stepLimit * 1024 ∧ (locked 2 0).settings.stepLimit ≤ 8) := by
  refine ⟨⟨rfl, by decide, rfl, rfl⟩, ?_⟩; decide

theorem witness_PulseBeyondTheLimitStepsBack :
    ((locked 89 1023).released ∧ (locked 89 1023).time.state ≠ .unset ∧ (locked 89 1023).time.ref = .locked ∧
      (locked 89 1023).time.rollover = none ∧ (locked 89 1023).time.pulseInterval = some 51200) ∧
    ((locked 89 1023).time.second % 60 * 1024 + (locked 89 1023).time.tick = 30719 ∧ 30719 < 30720 ∧
      (locked 89 1023).settings.stepLimit * 1024 < 30719) := by
  refine ⟨⟨rfl, by decide, rfl, rfl, rfl⟩, ?_⟩; decide

theorem witness_PulsesMoveTheReferenceState :
    51199 < 51200 ∧ 184320 ≤ 184320 ∧ live.time.state = .unset ∧ live.time.ref ≠ .locked ∧
    live.time.pulseInterval = none ∧ live.ports.p0.watch = none ∧ live.ports.p1.watch = none ∧
    (locked 0 0).time.ref = .locked ∧ live.released ∧
    -- the second 89 with its capture of 30719, in the midst of a rollover
    ({ (locked 89 1023) with time := { (locked 89 1023).time with rollover := some .table } }).time.rollover ≠ none ∧
    -- UNSET with the reference LOCKED already
    ({ (locked 0 0) with time := { (locked 0 0).time with state := .unset } }).time.state = .unset ∧
    -- the forward step: the second 90 with its capture of 30720, and the last capture that the limit does not slew
    (90 % 60 * 1024 + 0 = 30720 ∧ (locked 90 0).settings.stepLimit * 1024 < 61440 - 30720 ∧
      (locked 57 1023).settings.stepLimit * 1024 < 61440 - (57 * 1024 + 1023)) := by
  refine ⟨by decide, by decide, rfl, by decide, rfl, rfl, rfl, rfl, rfl, by decide, rfl, by decide⟩

/-- SET TIME of 24:00 less one second, from the holder, at a running second. -/
def setTimeAt (payload : List Byte) (state : TimeState) (second : Nat) : State :=
  asked .p0 codeSetTime payload { owned with time := { live.time with state := state, second := second } }

theorem witness_SetTimeStartsOrHoldsTheTime :
    ((setTimeAt [1, 0x51, 0x7F] .unset 0).commanded .p0 codeSetTime [1, 0x51, 0x7F] ∧
      (setTimeAt [1, 0x51, 0x7F] .unset 0).arbiter.holder = some .p0) ∧
    (u24At [1, 0x51, 0x7F] 0 = 86399 ∧ (setTimeAt [1, 0x51, 0x7F] .unset 0).time.rollover = none) ∧
    -- tod 18000 is the second 3600; from 7201 it is 3601 s back, from 7200 it is 3600 s back
    (((18000 : Int) - 60 * live.settings.dayStart) % 86400 = 3600 ∧
      ((3600 : Int) - 7201) % 86400 - 86400 < -3600 ∧ -3600 ≤ ((3600 : Int) - 7200) % 86400 - 86400 ∧
      3600 / 60 ≠ (setTimeAt [0, 0x46, 0x50] .running 7200).time.boardMinute ∧
      (((setTimeAt [0, 0x46, 0x50] .running 7200).time.boardMinute : Int) - (3600 / 60 : Nat)) % 1440 ≤ 60) ∧
    -- from 3659 the same target is within the present minute; from 3600 it is the forward step of 0 s
    (3600 / 60 = (setTimeAt [0, 0x46, 0x50] .running 3659).time.boardMinute ∧
      ((3600 : Int) - 3659) % 86400 - 86400 < 0 ∧ ((3600 : Int) - 3600) % 86400 = 0) ∧
    -- holding at 121 with the second 7200: 61 minutes back are too many
    ((setTimeAt [0, 0x46, 0x50] (.holding 121) 7200).time.boardMinute = 121 ∧ 60 < ((121 : Int) - 60) % 1440) ∧
    -- forward over the end of the day (R6): from the second 86300, tod 14520 is the second 120
    (((14520 : Int) - 60 * live.settings.dayStart) % 86400 = 120 ∧ ((120 : Int) - 86300) % 86400 < 43200 ∧
      120 / 60 < (setTimeAt [0, 0x38, 0xB8] .running 86300).time.boardMinute) := by
  refine ⟨⟨⟨rfl, rfl⟩, rfl⟩, ?_, ?_, ?_, ?_, ?_⟩ <;> decide

theorem witness_ReadTimeReportsTheTime :
    (asked .cp codeReadTime [] live).commanded .cp codeReadTime [] ∧ live.time.state ≠ .holding 0 ∧
    ({ live.time with state := .holding 1439 } : TimeBase).state = .holding 1439 := ⟨⟨rfl, rfl⟩, by decide, rfl⟩

/-! The departure table -/

/-- INSERT DEPARTURE of A1 at a scheduled minute, with an expected minute given in two bytes. -/
def insertA1 (sched expected : List Byte) : List Byte :=
  codeA1 ++ sched ++ expected ++ [4] ++ [0, 0, 10] ++ [0, 0, 0] ++ [0, 0, 0] ++ [0, 31]

theorem witness_InsertPlacesTheRecord :
    ((own codeInsertDeparture (insertA1 [6, 0x8F] absentMinute)).commanded .p0 codeInsertDeparture
        (insertA1 [6, 0x8F] absentMinute) ∧
      (own codeInsertDeparture (insertA1 [6, 0x8F] absentMinute)).arbiter.holder = some .p0) ∧
    ((parseInsert (insertA1 [6, 0x8F] absentMinute)).map InsertRequest.sched = some 1679 ∧
      (parseInsert (insertA1 [6, 0x90] absentMinute)).map InsertRequest.sched = some 1680 ∧
      (parseInsert (insertA1 [0, 0] [2, 0xD0])).map (fun q => (q.sched, q.expected)) = some (0, some 720) ∧
      -- a delay at the threshold and at the step, and one short of the threshold
      (parseInsert (insertA1 [0, 0] [0, 5])).map (fun q => (q.expected, q.mask.getLsbD 3)) = some (some 5, true) ∧
      (live.settings.delayCueThreshold : Int) ≤ ({ record with sched := 0, expected := some 5 } : Record).delay ∧
      live.settings.delayCueStep ≤ ({ record with sched := 0, expected := some 5 } : Record).delay.natAbs ∧
      ({ record with sched := 0, expected := some 4 } : Record).delay < live.settings.delayCueThreshold ∧
      ((with5 record live).table.slots[(5 : Slot)]).map Record.code = some [0x41, 0x31] ∧
      (∀ j : Slot, live.table.slots[j] = none)) ∧
    ∀ j : Slot, ({ live.table with slots := Vector.replicate 96 (some record) } : Table).slots[j] ≠ none := by
  refine ⟨⟨⟨rfl, rfl⟩, rfl⟩, by decide +kernel, fun j => by simp⟩

/-- A holder's command about the record in slot 5. -/
def ownA1 (code : Byte) (rest : List Byte) (r : Record) : State := with5 r (own code (codeA1 ++ rest))

theorem witness_AmendStoresTheForecast :
    ((ownA1 codeAmendExpected [2, 0x57] record).commanded .p0 codeAmendExpected (codeA1 ++ [2, 0x57]) ∧
      (ownA1 codeAmendExpected [2, 0x57] record).arbiter.holder = some .p0) ∧
    (parseCodeAnd 11 optMinuteAt (codeA1 ++ [2, 0x57]) = some ([0x41, 0x31], some 599) ∧
      parseCodeAnd 11 optMinuteAt (codeA1 ++ [5, 0x28]) = some ([0x41, 0x31], some 1320) ∧
      parseCodeAnd 11 optMinuteAt (codeA1 ++ absentMinute) = some ([0x41, 0x31], none) ∧
      (ownA1 codeAmendExpected [2, 0x57] record).table.findCode [0x41, 0x31] = some 5 ∧
      (ownA1 codeAmendExpected [2, 0x57] record).table.slots[(5 : Slot)] = some record) ∧
    -- 605 is announced after nothing, 608 not after 5, 600 leaves E as it is
    (({ record with expected := some 605 } : Record).effective ≠ record.effective ∧ record.mask.getLsbD 3 = true ∧
      (live.settings.delayCueThreshold : Int) ≤ ({ record with expected := some 605 } : Record).delay ∧
      live.settings.delayCueStep ≤ (({ record with expected := some 605 } : Record).delay - record.lastDelay.getD 0).natAbs ∧
      (({ record with expected := some 608 } : Record).delay -
        ({ record with lastDelay := some 5 } : Record).lastDelay.getD 0).natAbs < live.settings.delayCueStep ∧
      ({ record with expected := some 600 } : Record).effective = record.effective) := by
  refine ⟨⟨⟨rfl, rfl⟩, rfl⟩, by decide +kernel⟩

theorem witness_AssignPlatformFollowsItsCases :
    ((ownA1 codeAssignPlatform [32] record).commanded .p0 codeAssignPlatform (codeA1 ++ [32]) ∧
      (ownA1 codeAssignPlatform [32] record).arbiter.holder = some .p0) ∧
    (parseCodeAnd 10 platformAt (codeA1 ++ [32]) = some ([0x41, 0x31], some 32) ∧
      parseCodeAnd 10 platformAt (codeA1 ++ [4]) = some ([0x41, 0x31], some 4) ∧
      parseCodeAnd 10 platformAt (codeA1 ++ [0]) = some ([0x41, 0x31], none) ∧
      (ownA1 codeAssignPlatform [32] record).table.findCode [0x41, 0x31] = some 5 ∧
      (ownA1 codeAssignPlatform [32] record).table.slots[(5 : Slot)] = some record ∧ record.platform = some 4 ∧
      0 < live.settings.changeFlash ∧ record.mask.getLsbD 2 = true) := by
  refine ⟨⟨⟨rfl, rfl⟩, rfl⟩, by decide +kernel⟩

theorem witness_EditsSetOneFieldAndHandTheirNotifications :
    ((ownA1 codeSetRemark [0, 0, 1] record).commanded .p0 codeSetRemark (codeA1 ++ [0, 0, 1]) ∧
      (ownA1 codeSetSector [3] record).commanded .p0 codeSetSector (codeA1 ++ [3]) ∧
      (ownA1 codeSetAnnounceMask [30] record).commanded .p0 codeSetAnnounceMask (codeA1 ++ [30]) ∧
      (ownA1 codeSetRemark [0, 0, 1] record).arbiter.holder = some .p0) ∧
    ((parseCodeAnd 12 optRefAt (codeA1 ++ [1, 0xFF, 16])).map (fun x => x.2.map TextRef.row) = some (some 511) ∧
      parseCodeAnd 10 sectorAt (codeA1 ++ [3]) = some ([0x41, 0x31], 3) ∧
      parseCodeAnd 10 maskAt (codeA1 ++ [30]) = some ([0x41, 0x31], 30) ∧ record.mask.getLsbD 0 = true ∧
      (30 : BitVec 5).getLsbD 0 = false) := by
  refine ⟨⟨⟨rfl, rfl⟩, ⟨rfl, rfl⟩, ⟨rfl, rfl⟩, rfl⟩, by decide +kernel⟩

theorem witness_CancelDepartedAndReinstate :
    ((ownA1 codeCancelDeparture [] record).commanded .p0 codeCancelDeparture codeA1 ∧
      (ownA1 codeMarkDeparted [] record).commanded .p0 codeMarkDeparted codeA1 ∧
      (ownA1 codeReinstate [] { record with state := .cancelled 590 }).commanded .p0 codeReinstate codeA1) ∧
    (parseCode codeA1 = some [0x41, 0x31] ∧
      (ownA1 codeReinstate [] { record with state := .cancelled 590 }).table.findCode [0x41, 0x31] = some 5 ∧
      record.mask.getLsbD 4 = true ∧ record.effective + live.settings.departGrace ≤ 603 ∧ live.table.timed = false ∧
      ({ live.table with timed := true } : Table).timed = true) := by
  refine ⟨⟨⟨rfl, rfl⟩, ⟨rfl, rfl⟩, rfl, rfl⟩, by decide +kernel⟩

theorem witness_RemoveAndClearFreeTheSlots :
    ((ownA1 codeRemoveDeparture [] record).commanded .p0 codeRemoveDeparture codeA1 ∧
      (with5 record (own codeClearBoard [])).commanded .p0 codeClearBoard []) ∧
    ((ownA1 codeRemoveDeparture [] record).table.findCode [0x41, 0x31] = some 5 ∧
      (with5 record (own codeClearBoard [])).table.slots[(5 : Slot)] ≠ none ∧
      (∀ j : Slot, j < 5 → (with5 record (own codeClearBoard [])).table.slots[j] = none)) := by
  refine ⟨⟨⟨rfl, rfl⟩, rfl, rfl⟩, by decide +kernel⟩

theorem witness_TableMinuteEventAndRebase :
    ({ live.table with inbox := [.minute 1439] } : Table).inbox = .minute 1439 :: [] ∧
    ({ live.table with inbox := [.rebase, .minute 0] } : Table).inbox = .rebase :: [.minute 0] ∧
    (board live).listSound ∧ (board live).table.slots[(5 : Slot)] = some record ∧
    -- at 584 no record changes; at 585 both go CALLED, slot 5 the lowest
    (evaluate defaultSettings true 584 record).changed = false ∧
    (evaluate defaultSettings true 585 record).changed = true := by
  refine ⟨rfl, rfl, ⟨by decide, fun i => ?_⟩, ?_⟩
  · revert i; decide +kernel
  · decide +kernel

theorem witness_EvaluationFollowsTheLifecycle :
    record.previous = none ∧ record.state = .waiting ∧ record.effective + defaultSettings.departGrace ≤ 603 ∧
    602 < record.effective + defaultSettings.departGrace ∧ record.effective - defaultSettings.closeLead ≤ 598 ∧
    600 ≤ record.effective ∧ 597 < record.effective - defaultSettings.closeLead ∧
    record.effective - defaultSettings.callLead ≤ 585 ∧ 584 < record.effective - defaultSettings.callLead ∧
    record.mask.getLsbD 0 = true ∧ record.mask.getLsbD 1 = true ∧ (603 : Int) + defaultSettings.goneHold ≤ 604 ∧
    (603 : Int) < 603 + defaultSettings.goneHold ∧ 614 < max record.sched 590 + defaultSettings.cancelHold ∧
    max record.sched 590 + defaultSettings.cancelHold ≤ 615 ∧
    -- no cue: past E, out of the mask, issued already; no platform
    record.effective < 601 ∧ ({ record with mask := 0 } : Record).mask.getLsbD 1 = false ∧
    ({ record with callIssued := true, closingIssued := true } : Record).callIssued = true ∧
    ({ record with platform := none } : Record).platform = none ∧
    -- a flash of 5 minutes, from 590 on
    ({ record with previous := some (4, 590) } : Record).previous = some (4, 590) ∧
    (590 : Int) + defaultSettings.changeFlash ≤ 595 ∧ (594 : Int) < 590 + defaultSettings.changeFlash := by
  decide +kernel

theorem witness_TableReadsAnswerFromTheTable :
    ((board (asked .p1 codeReadRecord [1, 95] live)).commanded .p1 codeReadRecord [1, 95] ∧
      (board (asked .p1 codeReadRecord (0 :: codeA1) live)).commanded .p1 codeReadRecord (0 :: codeA1) ∧
      (board (asked .p1 codeReadList [96] live)).commanded .p1 codeReadList [96]) ∧
    (parseRecordName [1, 95] = some (.slot 95) ∧ parseRecordName (0 :: codeA1) = some (.code [0x41, 0x31]) ∧
      parseStart [96] = some 96 ∧ parseStart [1] = some 1 ∧
      (board live).table.slots[(95 : Slot)] = some { record with code := [0x42, 0x32] } ∧
      (board live).table.slots[(5 : Slot)] = some record ∧ (board live).table.findCode [0x41, 0x31] = some 5) := by
  refine ⟨⟨⟨rfl, rfl⟩, ⟨rfl, rfl⟩, rfl, rfl⟩, by decide +kernel⟩

/-! Update authority -/

theorem witness_RequestGrantsOrWaits :
    ((asked .p1 codeRequestAuthority [] live).commanded .p1 codeRequestAuthority [] ∧
      (asked .p0 codeRequestAuthority [] (asked .p1 codeRequestAuthority [] live)).commanded .p0
        codeRequestAuthority []) ∧
    ((asked .p1 codeRequestAuthority [] live).arbiter.holder = none ∧
      (asked .p1 codeRequestAuthority [] live).claims .p0 = false ∧ owned.arbiter.holder = some (Ctrl.p1).other ∧
      owned.arbiter.waiting ≠ some .p1 ∧ owned.arbiter.holder = some .p0) := by
  refine ⟨⟨⟨rfl, rfl⟩, rfl, rfl⟩, by decide⟩

theorem witness_SeizeAndReleaseMoveAuthority :
    ((asked .p1 codeSeizeAuthority [] owned).commanded .p1 codeSeizeAuthority [] ∧
      (own codeReleaseAuthority []).commanded .p0 codeReleaseAuthority [] ∧
      (asked .p1 codeReleaseAuthority [] owned).commanded .p1 codeReleaseAuthority []) ∧
    (owned.settings.seizeEnable = true ∧ ({ defaultSettings with seizeEnable := false } : Settings).seizeEnable = false ∧
      owned.arbiter.holder = some (Ctrl.p1).other ∧ owned.arbiter.waiting = none ∧ owned.arbiter.holder ≠ some .p1 ∧
      ({ owned.arbiter with waiting := some .p1 } : Arbiter).waiting = some .p1) := by
  refine ⟨⟨⟨rfl, rfl⟩, ⟨rfl, rfl⟩, rfl, rfl⟩, by decide⟩

theorem witness_AuthorityTimersExpire :
    ({ owned.arbiter with yield := .running 0, waiting := some .p1 } : Arbiter).yield = .running 0 ∧
    ({ owned.arbiter with silence := .running 0 } : Arbiter).silence = .running 0 ∧ owned.operating := ⟨rfl, rfl, rfl⟩

/-! The text store -/

theorem witness_StagingCommands :
    ((own codeDiscardStaging []).commanded .p0 codeDiscardStaging [] ∧
      (own codeSetTextAddress [1, 0xFF, 15]).commanded .p0 codeSetTextAddress [1, 0xFF, 15] ∧
      (own codeLoadText [1, 0x41]).commanded .p0 codeLoadText [1, 0x41] ∧ owned.arbiter.holder = some .p0) ∧
    (parseAddress [1, 0xFF, 15] = some (511, 15) ∧ parseLoad [1, 0x41] = some (true, [0x41]) ∧
      Staging.reset.column = .cell 0 ∧ (511 + 1) % 512 = 0) := by
  refine ⟨⟨⟨rfl, rfl⟩, ⟨rfl, rfl⟩, ⟨rfl, rfl⟩, rfl⟩, by decide +kernel⟩

/-- A buffer with cell 15 loaded, for row 63. -/
def staged : Staging :=
  { Staging.reset with
    row := 63, cells := put Staging.reset.cells 15 0x41, loaded := put Staging.reset.loaded 15 true }

theorem witness_CommitRowTakesTheStagedCells :
    (own codeCommitRow []).commanded .p0 codeCommitRow [] ∧
    (live.store.engine = none ∧ (∀ k : Fin 16, Staging.reset.loaded[k] = false) ∧
      (∃ k : Fin 16, staged.loaded[k] = true) ∧ staged.row.val ≤ 63 ∧
      ¬ ((⟨0, false, false, false, true⟩ : Straps).prot = true ∧ (64 : Nat) ≤ 63)) := by
  refine ⟨⟨rfl, rfl⟩, rfl, ?_, ⟨15, ?_⟩, by decide, by decide⟩ <;> decide

theorem witness_RowCommitCompletionWritesTheRow :
    ({ live.store with engine := some ⟨.row 511 (List.replicate 16 0x41), .p1⟩ } : TextStore).engine =
      some ⟨.row 511 (List.replicate 16 0x41), .p1⟩ ∧ (List.replicate 16 (0x41 : Byte)).length = 16 ∧
    live.textCanonical ∧ live.operating := ⟨rfl, rfl, rfl, rfl⟩

theorem witness_ReadTextRowReportsTheRow :
    (asked .cp codeReadTextRow [1, 0xFF] live).commanded .cp codeReadTextRow [1, 0xFF] ∧
    (parseRow [1, 0xFF] = some 511 ∧ 511 ∈ ({ live.store with failing := [511] } : TextStore).failing ∧
      511 ∉ live.store.failing) := by
  refine ⟨⟨rfl, rfl⟩, by decide +kernel⟩

/-! The composer and the scheduler -/

theorem witness_MinutesOfComposerAndScheduler :
    ({ live.composer with inbox := [.minute 600] } : Composer).inbox = .minute 600 :: [] ∧
    ({ live.composer with inbox := [.rebase] } : Composer).inbox = .rebase :: [] ∧
    ({ live.cues with minutes := [1439] } : Cues).minutes = 1439 :: [] ∧
    ({ live.cues with inbox := [.rebase] } : Cues).inbox = .rebase :: [] ∧
    ({ live.time with rollover := some .scheduler, outbox := [.minute 0] } : TimeBase).outbox = [.minute 0] ∧
    (⟨ref0, 0, some 600⟩ : Notice).expiry = some 600 ∧ (600 : Int) ≤ (600 : Nat) ∧ ((600 : Nat) : Int) < 601 := by
  decide

/-- A chain 1 view under an enabled plan with 10 rows, 8 of them LIST. -/
def viewOf (pages page : Nat) (timer : LatchTimer) : ChainView :=
  { ChainView.reset with
    plan := defaultPlan true, pages := List.replicate pages (5, [0x41, 0x31]), page := page, pageTimer := timer }

theorem witness_CycleStartFixesPlanListAndPage :
    (withLink (fun l => { l with state := .ended, refresh := .runOut }) live).links[(1 : Chain)].state = .ended ∧
    (withLink (fun l => { l with state := .ended, refresh := .runOut }) live).links[(1 : Chain)].refresh = .runOut ∧
    (live.settings.plans[(0 : Chain)].enabled = true ∧ live.settings.plans[(1 : Chain)].enabled = false) ∧
    -- the cycle plan of a chain before its first cycle start has other LIST rows, pins, sectors or filter, or the same
    ((ChainView.reset.plan.roles.count .list ≠ ({ defaultPlan true with roles := [.list] } : ChainPlan).roles.count .list) ∧
      ChainView.reset.plan.roles.count .list = (defaultPlan true).roles.count .list ∧
      ChainView.reset.plan.pinned = (defaultPlan true).pinned ∧
      ChainView.reset.plan.sectorMask = (defaultPlan true).sectorMask ∧
      ChainView.reset.plan.platformFilter = (defaultPlan true).platformFilter ∧
      Role.notice ∈ (defaultPlan true).roles ∧
      Role.notice ∉ ({ defaultPlan true with roles := [.list] } : ChainPlan).roles) ∧
    -- 8 LIST rows, 2 pinned, 6 a page: 8 entries do not page, 9 do
    ((viewOf 8 0 .stopped).plan.roles.count .list = 8 ∧ (8 : Nat) - (viewOf 8 0 .stopped).plan.pinned = 6 ∧
      (viewOf 9 0 .stopped).pages.length = 9 ∧ 2 + (0 + 1) * 6 + 1 ≤ 9 ∧ 14 < 2 + (1 + 1) * 6 + 1 ∧
      2 + 1 * 6 + 1 ≤ 9 ∧ 9 < 2 + 2 * 6 + 1) ∧
    (withView (fun v => { v with pageTimer := .running 0 }) live).composer.views[(1 : Chain)].pageTimer = .running 0 ∧
    (withLink (fun l => { l with refresh := .running 0 }) live).links[(1 : Chain)].refresh = .running 0 := by
  decide +kernel

/-- Chain 1 wanting its row 10. -/
def wants : State := withView (fun v => { v with plan := defaultPlan true, running := true, nextRow := 10 }) live

theorem witness_CompositionsServeTheWantingChain :
    wants.operating ∧ wants.composer.engine = none ∧
    ((1 : Chain) = wants.composer.lastServed + 1 + 1 ∧ wants.wanting 1 = true ∧ wants.wanting 0 = false) ∧
    (defaultPlan true).roles.getD (1 - 1) .blank = .clock ∧ (defaultPlan true).roles.getD (11 - 1) .blank = .blank ∧
    (defaultPlan true).enabled = true ∧ (defaultPlan false).enabled = false ∧
    -- the rows 2 to 9 are LIST: row 3 is the last pinned position, row 4 the first of the page; row 10 is NOTICE
    ((defaultPlan true).roles.getD (3 - 1) .blank = .list ∧ ((defaultPlan true).roles.take 3).count .list = 2 ∧
      (defaultPlan true).pinned = 2 ∧ ((defaultPlan true).roles.take 4).count .list = 3 ∧
      (defaultPlan true).roles.getD (10 - 1) .blank = .notice) ∧
    -- an empty sequence, one of a notice, and one of an automatic notice
    (noticeSequence live (defaultPlan true) = [] ∧
      noticeSequence noticed (defaultPlan true) = .position 7 :: [] ∧
      noticeSequence delayed (defaultPlan true) = .automatic 5 [0x41, 0x31] :: [] ∧
      delayed.settings.autoDelayNotices = true ∧
      ({ live.settings with autoDelayNotices := false } : Settings).autoDelayNotices = false) ∧
    (noticed.composer.notices[(7 : Fin 8)] = some ⟨ref0, 3, none⟩ ∧ (ref0.len : Nat) = 10 ∧ 0 < 24) := by
  refine ⟨rfl, rfl, ?_, rfl, rfl, rfl, rfl, ?_⟩ <;> decide +kernel

theorem witness_ListRowsFillTheirFields :
    ({ defaultPlan true with width := 24 } : ChainPlan).width = 24 ∧
    ({ defaultPlan true with width := 64 } : ChainPlan).width = 64 ∧
    (1 ≤ 4 ∧ 4 ≤ 32 ∧ record.platform = some 4 ∧ record.previous = none ∧ record.state = .waiting) ∧
    (defaultSettings.onTimeTolerance : Int) ≤ ({ record with expected := some 602 } : Record).delay ∧
    (viewOf 1 0 .stopped).pages[(viewOf 1 0 .stopped).listPosition 1 - 1]? = some (5, [0x41, 0x31]) ∧
    (with5 record live).table.slots[(5 : Slot)] = some record := by
  decide +kernel

theorem witness_NoticesAreSetClearedAndRotated :
    ((own codeSetNotice [7, 0, 0, 10, 3, 0x80, 0]).commanded .p0 codeSetNotice [7, 0, 0, 10, 3, 0x80, 0] ∧
      (own codeClearNotice [7]).commanded .p0 codeClearNotice [7]) ∧
    (parseNotice [7, 0, 0, 10, 3, 0x80, 0] = some (7, ⟨ref0, 3, none⟩) ∧ parsePosition [7] = some 7 ∧
      (withView (fun v => { v with partTimer := .running 0, cursor := some ⟨.position 7, 1⟩ }) live).composer.views[
        (1 : Chain)].partTimer = .running 0 ∧
      (withView (fun v => { v with partTimer := .running 5120000, partOwed := true }) live).composer.views[
        (1 : Chain)].partOwed = true ∧
      noticeSequence live (defaultPlan true) = [] ∧
      noticeSequence noticed (defaultPlan true) = [.position 7]) := by
  refine ⟨⟨⟨rfl, rfl⟩, rfl, rfl⟩, by decide +kernel⟩

/-! The chain links -/

theorem witness_LinksChooseTheirFrames :
    (withLink (fun l => { l with state := .lead, feed := [.image 1 (blankImage 24)] }) live).links[(1 : Chain)].feed =
      .image 1 (blankImage 24) :: [] ∧
    (withLink (fun l => { l with state := .lead, feed := [.reserved 1] }) live).links[(1 : Chain)].feed =
      .reserved 1 :: [] ∧
    (withLink (fun l => { l with state := .rowOut 12 ⟨.repeated, []⟩ }) live).links[(1 : Chain)].state =
      .rowOut 12 ⟨.repeated, []⟩ := by
  decide +kernel

theorem witness_WindowsCloseWithAnAnswerOrAbsent :
    (withLink (fun l => { l with state := .answerWait 12 ⟨.repeated, []⟩, rowCount := 12 }) live).links[(1 : Chain)].state =
      .answerWait 12 ⟨.repeated, []⟩ ∧ (12 : Nat) = (11 : Fin 12).val + 1 ∧ 11 < 12 ∧ 12 ≤ 12 ∧
    (withLink (fun l => { l with state := .answerWait 11 ⟨.repeated, []⟩, rowCount := 12, feed := [.image 12 (blankImage 24)] })
      live).links[(1 : Chain)].feed = .image (11 + 1) (blankImage 24) :: [] ∧
    (withLink (fun l => { l with state := .answerWait 11 ⟨.repeated, []⟩, rowCount := 12, feed := [.reserved 12] })
      live).links[(1 : Chain)].feed = .reserved (11 + 1) :: [] ∧
    (⟨.absent, 2⟩ : ModuleStatus).absentRun = 2 ∧ (⟨.absent, 3⟩ : ModuleStatus).absentRun ≠ 2 ∧
    ({ defaultRouting with chainFault := .both } : Routing).chainFault = .both ∧
    (live.port .p0).enables.getLsbD 11 = true := by
  decide +kernel

/-! Announcement cues -/

def anIssue : Issue := ⟨.call, 5, [0x41, 0x31], some 4, none, 600, 0, ref0, none, 585⟩

theorem witness_IssuesReplaceAppendOrDrop :
    (({ live.cues with inbox := [.notice (.issue anIssue) none] } : Cues).inbox = .notice (.issue anIssue) none :: [] ∧
      anIssue.kind.cls = .routine ∧ anIssue.kind ≠ .notice ∧ CueKind.delay.cls = .delay ∧
      CueKind.platformChange.cls = .platform ∧
      (∃ q ∈ [cue .call 1], q.kind = anIssue.kind ∧ q.slot = some anIssue.slot) ∧
      (∀ q ∈ List.replicate 15 (cue .closing 1), q.kind ≠ anIssue.kind ∨ q.slot ≠ some anIssue.slot) ∧
      (List.replicate 15 (cue .closing 1)).length < 16 ∧ (List.replicate 16 (cue .closing 1)).length = 16 ∧
      live.cues.playing = none) ∧ ticking.queuesBounded :=
  ⟨by decide +kernel, fun k => by cases k <;> decide⟩

theorem witness_NotificationsRefreshWithdrawAndSupersede :
    [CueMessage.notice (.refresh ⟨5, some 5, 600, 0, none⟩) none] = .notice (.refresh ⟨5, some 5, 600, 0, none⟩) none :: [] ∧
    (cue .call 1).slot = some 5 ∧ (cue .call 1).platform ≠ some 5 ∧
    -- an equal playing cue, and DELAY cues that differ in the delay alone and in the remark alone
    ((cue .delay 1).platform = some 4 ∧ (cue .delay 1).effective = some 600 ∧ (cue .delay 1).delay = some 6 ∧
      (cue .delay 1).remark = none ∧ (cue .delay 1).delay ≠ some 7 ∧ (cue .delay 1).remark ≠ some ref0) ∧
    (fun q : Cue => decide (q.slot = some 5 ∧ q.kind ∈ [CueKind.call])) (cue .call 1) = true ∧
    (fun q : Cue => decide (q.slot = some 5)) (cue .notice 1) = false ∧
    (fun q : Cue => decide (q.kind ≠ .notice)) (cue .notice 1) = false ∧
    live.cues.withdrawnRoutine.toNat + [cue .call 1].countP (fun q => decide (q.slot = some 5)) ≤ 65535 ∧
    65535 < (0xFFFF : Counter).toNat + [cue .call 1].countP (fun q => decide (q.slot = some 5)) ∧
    (⟨cue .call 1, false, 0⟩ : Playing).superseded = false ∧ (⟨cue .call 1, true, 0⟩ : Playing).superseded = true := by
  decide +kernel

theorem witness_AnnounceAndFetchWorkTheQueues :
    ((own codeAnnounce [0, 0, 10, 3]).commanded .p0 codeAnnounce [0, 0, 10, 3] ∧
      (asked .cp codeFetchCue [] live).commanded .cp codeFetchCue []) ∧
    (parseAnnounce [0, 0, 10, 3] = some (ref0, 3) ∧ live.cues.safety.length < 16 ∧
      16 ≤ (List.replicate 16 (cue .notice 1)).length ∧ live.cues.playing = none ∧ live.cues.queue .routine = [] ∧
      (∀ k, live.cues.queue k = []) ∧ live.cues.safety = [] ∧ live.cues.platform = [] ∧
      ({ live.cues with delay := [cue .delay 1], creditDelay := 1 } : Cues).queue .delay = cue .delay 1 :: [] ∧
      0 < ({ live.cues with creditDelay := 1 } : Cues).credit .delay ∧ live.settings.scheduling = .weighted ∧
      0 < live.settings.platformWeight ∧ 0 < live.settings.delayWeight ∧ 0 < live.settings.routineWeight) ∧
    -- the reload: pending cues in no class with credit, of DELAY first and of ROUTINE alone
    ((∀ j, ({ live.cues with delay := [cue .delay 1], routine := [cue .call 2], creditDelay := 0, creditRoutine := 0 } :
        Cues).queue j ≠ [] → ({ live.cues with delay := [cue .delay 1], routine := [cue .call 2], creditDelay := 0
                                               creditRoutine := 0 } : Cues).credit j = 0) ∧
      (∀ j, ({ live.cues with routine := [cue .call 2], creditRoutine := 0 } : Cues).queue j ≠ [] →
        ({ live.cues with routine := [cue .call 2], creditRoutine := 0 } : Cues).credit j = 0)) := by
  refine ⟨⟨⟨rfl, rfl⟩, rfl, rfl⟩,
    ⟨by decide, by decide, by decide, rfl, rfl, fun k => by cases k <;> rfl, rfl, rfl, by decide +kernel⟩,
    fun j => by cases j <;> decide, fun j => by cases j <;> decide⟩

theorem witness_PlayingEndsByReportOrTimeout :
    (asked .cp codeCueDone [255, 0] live).commanded .cp codeCueDone [255, 0] ∧
    (parseDone [255, 0] = some (255, true) ∧ parseDone [1, 1] = some (1, false) ∧ (cue .notice 255).handle = 255 ∧
      (cue .notice 255).kind = .notice ∧ 0 < (cue .notice 255).repeats ∧ (⟨cue .call 1, false, 0⟩ : Playing).left = 0 ∧
      live.cues.safety.length < 16 ∧ (List.replicate 16 (cue .notice 1)).length = 16) := by
  refine ⟨⟨rfl, rfl⟩, by decide +kernel⟩

/-! The clock lines -/

theorem witness_LinesAreEvaluatedAgainstTheMinute :
    ({ live.clock with inbox := [345] } : ClockDriver).inbox = 345 :: [] ∧
    (lineAtMinute 585 .stopped).state.evaluable = true ∧ LineState.unknown.evaluable = false ∧
    ((((live.settings.dayStart + 345) % 720 : Nat) : Int) - 585) % 720 = 0 ∧
    ((((live.settings.dayStart + 345) % 720 : Nat) : Int) - 645) % 720 = 720 - live.settings.lines[(1 : Line)].wait ∧
    ((((live.settings.dayStart + 345) % 720 : Nat) : Int) - 646) % 720 < 720 - live.settings.lines[(1 : Line)].wait ∧
    ((((live.settings.dayStart + 345) % 720 : Nat) : Int) - 584) % 720 = 1 ∧
    (withLine 1 (lineAtMinute 584 (.running 0)) live).clock.lines[(1 : Line)].spacing = .running 0 ∧
    ({ live.clock with clockSet := true } : ClockDriver).clockSet = true := by
  decide +kernel

theorem witness_ImpulsesEndCompleteOrFaulted :
    (lineAtMinute 719 .stopped).impulse = none ∧
    ({ lineAtMinute 719 .stopped with impulse := some ⟨.positive, 500⟩, offRequested := true } : LineRecord).impulse =
      some ⟨.positive, 500⟩ ∧ (lineAtMinute 719 .stopped).shown = some 719 ∧
    (lineAtMinute 719 .stopped).offRequested = false ∧ (lineAtMinute 719 .stopped).state.evaluable = true ∧
    LineState.off.evaluable = false ∧ ({ live.clock with clockSet := true } : ClockDriver).clockSet = true ∧
    live.clock.clockSet = false ∧
    -- after the impulse the dial shows 0: at minute 480 the target is 0, at 481 it is one behind, at 300 it waits
    ((((live.settings.dayStart + 480) % 720 : Nat) : Int) - 0) % 720 = 0 ∧
    ((((live.settings.dayStart + 481) % 720 : Nat) : Int) - 0) % 720 = 1 ∧
    720 - live.settings.lines[(1 : Line)].wait ≤ ((((live.settings.dayStart + 479) % 720 : Nat) : Int) - 0) % 720 ∧
    live.settings.routing.clockLineFault = .both ∧ (live.port .p0).enables.getLsbD 10 = true := by
  decide +kernel

theorem witness_LineCommandsFollowTheirTables :
    ((own codeSetDialShown [3, 2, 0xCF, 1]).commanded .p0 codeSetDialShown [3, 2, 0xCF, 1] ∧
      (own codeLineOff [3]).commanded .p0 codeLineOff [3] ∧ (own codeLineOn [3]).commanded .p0 codeLineOn [3] ∧
      (own codeClearLineFault [3]).commanded .p0 codeClearLineFault [3]) ∧
    (parseDial [3, 2, 0xCF, 1] = some (3, 719, .negative) ∧ parseLine [3] = some 3 ∧
      live.clock.lines[(3 : Line)].impulse = none ∧ live.clock.lines[(3 : Line)].shown = none ∧
      live.clock.clockSet = false ∧ ({ live.clock with clockSet := true } : ClockDriver).clockSet = true ∧
      live.clock.lines[(3 : Line)].state = .unknown ∧
      (lineAtMinute 719 .stopped).shown ≠ none ∧ (lineAtMinute 719 .stopped).polarity ≠ .negative ∧
      live.settings.lines[(3 : Line)].enabled = true ∧
      ({ lineAtMinute 719 .stopped with state := .fault .short } : LineRecord).state = .fault .short ∧
      ({ lineAtMinute 719 .stopped with state := .off } : LineRecord).state = .off ∧
      ({ live.clock with working := 479 } : ClockDriver).working = 479 ∧ (live.settings.dayStart + 479) % 720 = 719) := by
  refine ⟨⟨⟨rfl, rfl⟩, ⟨rfl, rfl⟩, ⟨rfl, rfl⟩, rfl, rfl⟩, by decide +kernel⟩

/-! Configuration, counters and ports -/

theorem witness_ConfigurationItemsAreWrittenAndRead :
    ((own codeWriteConfigItem [0x11, 1, 5]).commanded .p0 codeWriteConfigItem [0x11, 1, 5] ∧
      (asked .p1 codeReadConfigItem [0x79] live).commanded .p1 codeReadConfigItem [0x79]) ∧
    (parseItem [0x11, 1, 5] = some (0x11, [5]) ∧ itemOfTag 0x11 = some .callLead ∧ itemOfTag 0x23 = none ∧
      itemOfTag 0x79 = some (.routing .configDefaulted) ∧
      (Item.callLead.store live.settings [4]) = none ∧
      (Item.callLead.store live.settings [5]).map Settings.callLead = some 5 ∧ live.settings.closeLead < 5 ∧
      (Item.closeLead.store { live.settings with callLead := 10 } [10]).map Settings.closeLead = some 10 ∧
      (Item.dayStart.store live.settings [5, 0x9F]).map Settings.dayStart = some 1439 ∧ live.time.state = .unset ∧
      (atTick 0).time.state ≠ .unset) := by
  refine ⟨⟨⟨rfl, rfl⟩, rfl, rfl⟩, by decide +kernel⟩

theorem witness_ConfigurationCommitReplacesTheStoredBlock :
    (own codeCommitConfig []).commanded .p0 codeCommitConfig [] ∧ live.store.engine = none ∧
    ({ live.store with engine := some ⟨.config defaultSettings, .p0⟩ } : TextStore).engine ≠ none := by
  refine ⟨⟨rfl, rfl⟩, rfl, ?_⟩; simp

theorem witness_StoredBlockGivesBackTheConfiguration : defaultSettings.inRange := by
  unfold Settings.inRange ChainPlan.inRange LineConfig.inRange
  decide +kernel

theorem witness_StatusReadsChangeNothing :
    ((asked .p1 codeReadAuthority [] live).commanded .p1 codeReadAuthority [] ∧
      (asked .p1 codeReadLines [] live).commanded .p1 codeReadLines [] ∧
      (asked .p1 codeReadNotices [] live).commanded .p1 codeReadNotices [] ∧
      (asked .p1 codeReadCueStatus [] live).commanded .p1 codeReadCueStatus [] ∧
      (asked .cp codeReadCounters [] live).commanded .cp codeReadCounters [] ∧
      (asked .cp codeReadIdent [] live).commanded .cp codeReadIdent []) ∧
    (own codeClearCounters []).commanded .p0 codeClearCounters [] :=
  ⟨⟨⟨rfl, rfl⟩, ⟨rfl, rfl⟩, ⟨rfl, rfl⟩, ⟨rfl, rfl⟩, ⟨rfl, rfl⟩, rfl, rfl⟩, rfl, rfl⟩

theorem witness_FramesAreJudgedAndTaken :
    (live.port .p0).receiver = .hunt ∧ (List.replicate 64 (0 : Byte)).length ≤ 64 ∧
    be16 (crc16 [0, 0, 0x21]).toNat ≠ [0, 0] ∧ (be16 (crc16 [0, 0, 0x21]).toNat).length = 2 ∧
    (15 : Byte).toNat ≠ live.ident.straps.unit.toNat ∧ (0 : Byte).toNat = live.ident.straps.unit.toNat ∧
    (live.port .p0).service = .idle ∧ codeAllowed .p0 0x21 = true ∧ codeAllowed .cp 0x20 = false ∧
    owned.arbiter.holder = some .p0 ∧ 64 < (65 : Byte).toNat ∧ ¬ 64 < (64 : Byte).toNat ∧
    ((live.setService .cp (.serving 0x21 [] (.replied ⟨.done, []⟩))).port .cp).service =
      .serving 0x21 [] (.replied ⟨.done, []⟩) := by
  decide +kernel

theorem witness_LineDisturbancesAndTheEndOfAReply :
    ({ PortState.reset with receiver := .inFrame [0, 1] } : PortState).receiver = .inFrame [0, 1] ∧
    (live.port .cp).receiver = .hunt ∧
    ({ PortState.reset with service := .serving 0x21 [] (.replied ⟨.done, []⟩) } : PortState).service =
      .serving 0x21 [] (.replied ⟨.done, []⟩) ∧ live.cues.inbox = [] := by
  decide

theorem witness_EventsAreReadEnabledAndWatched :
    ((asked .cp codeReadEvent [] live).commanded .cp codeReadEvent [] ∧
      (asked .p1 codeSetEventEnable [3, 0xFF, 0xFF] live).commanded .p1 codeSetEventEnable [3, 0xFF, 0xFF] ∧
      (asked .p1 codePostWatch ([4, 0] ++ List.replicate 11 1) live).commanded .p1 codePostWatch
        ([4, 0] ++ List.replicate 11 1)) ∧
    (parseEnables [3, 0xFF, 0xFF] = some 262143 ∧
      parseWatch ([4, 0] ++ List.replicate 11 1) = some ⟨1024, List.replicate 11 1⟩ ∧
      (statusVector live)[10]? = some 1 ∧ parseWatch ([4, 0] ++ List.replicate 11 0) = some ⟨1024, List.replicate 11 0⟩ ∧
      parseWatch ([0, 0] ++ List.replicate 11 0) = some ⟨0, List.replicate 11 0⟩ ∧
      (live.port .cp).events = [] ∧ [Event.dayRollover, .cueReady] = .dayRollover :: [.cueReady]) ∧
    -- two events in ascending code, the lower one first
    (ticking.eventsAscending ∧ Event.authorityExpired ∈ (ticking.port .p0).events ∧
      ∀ x ∈ (ticking.port .p0).events, Event.authorityExpired.code ≤ x.code) := by
  refine ⟨⟨⟨rfl, rfl⟩, ⟨rfl, rfl⟩, rfl, rfl⟩, by decide +kernel, fun p => by cases p <;> decide, by decide +kernel,
    by decide +kernel⟩

/-! More witnesses, for the clauses about a rollover in progress, the evaluation of a changed record, two claims of
authority, the deliveries of a rollover, and the watches -/

/-- A state in the midst of a day rollover. -/
def inRollover (s : State) : State := { s with time := { s.time with rollover := some .table } }

theorem witness_SetTime_in_a_rollover :
    (inRollover (setTimeAt [0, 0x46, 0x50] .running 7200)).commanded .p0 codeSetTime [0, 0x46, 0x50] ∧
    (inRollover (setTimeAt [0, 0x46, 0x50] .running 7200)).arbiter.holder = some .p0 ∧
    ((inRollover (setTimeAt [0, 0x46, 0x50] .running 7200)).time.rollover ≠ none ∧
      -- the hold of 3600 s, the step back within the minute, and the forward step of 0 s
      (inRollover (setTimeAt [0, 0x46, 0x50] .running 7200)).time.boardMinute = 120 ∧
      (inRollover (setTimeAt [0, 0x46, 0x50] .running 3659)).time.boardMinute = 3600 / 60 ∧
      (inRollover (setTimeAt [0, 0x46, 0x50] .running 3600)).time.second = 3600) ∧
    (inRollover (atSecond 86399 true)).time.rollover = some .table :=
  ⟨⟨rfl, rfl⟩, rfl, by decide, rfl⟩

theorem witness_commands_are_evaluated :
    -- an INSERT in TIMED mode at the earliest minute it takes, and a first assignment, a change and a clearing
    ((600 : Int) - 15 ≤ 585 ∧ ({ live.table with timed := true, working := 600 } : Table).timed = true) ∧
    ((ownA1 codeAssignPlatform [4] { record with platform := none }).table.slots[(5 : Slot)] =
        some { record with platform := none } ∧
      ({ record with mask := 27 } : Record).mask.getLsbD 2 = false ∧
      ({ defaultSettings with changeFlash := 0 } : Settings).changeFlash = 0) ∧
    -- GONE at once at E plus DEPART GRACE
    ((evaluate defaultSettings true 603 record).record.map Record.state = some (.gone 603)) := by
  decide +kernel

/-- The two records of one minute, in conflict. -/
def paired (s : State) : State := { board s with table := { (board s).table with pairs := [(5, 95)] } }

theorem witness_RemoveDeparture_frees_a_partner :
    (paired (own codeRemoveDeparture codeA1)).commanded .p0 codeRemoveDeparture codeA1 ∧
    ((paired (own codeRemoveDeparture codeA1)).arbiter.holder = some .p0 ∧
      (paired (own codeRemoveDeparture codeA1)).table.findCode [0x41, 0x31] = some 5 ∧ (95 : Slot) ≠ 5 ∧
      ((5, 95) : Slot × Slot) ∈ (paired (own codeRemoveDeparture codeA1)).table.pairs ∧
      (paired (own codeRemoveDeparture codeA1)).table.slots[(95 : Slot)] =
        some { record with code := [0x42, 0x32] }) := by
  refine ⟨⟨rfl, rfl⟩, by decide +kernel⟩

/-- Both ports claim from FREE: P0 by a SEIZE, P1 by a REQUEST. -/
def bothClaim : State := asked .p0 codeSeizeAuthority [] (asked .p1 codeRequestAuthority [] live)

/-- The claim of each. -/
def claimOf : Ctrl → Byte
  | .p0 => codeSeizeAuthority
  | .p1 => codeRequestAuthority

theorem witness_RequestGrantsOrWaits_two_claims :
    (∀ q, bothClaim.commanded q.port (claimOf q) [] ∧
      (claimOf q = codeRequestAuthority ∨ claimOf q = codeSeizeAuthority ∧ bothClaim.settings.seizeEnable = true)) ∧
    bothClaim.arbiter.holder = none ∧ Ctrl.p0 = (if bothClaim.ident.straps.pri then Ctrl.p1 else Ctrl.p0) ∧
    (bothClaim.port .p0).enables.getLsbD 4 = true :=
  ⟨fun q => by cases q <;> exact ⟨⟨rfl, rfl⟩, by decide⟩, by decide⟩

theorem witness_SeizeAuthority_from_free_and_by_the_holder :
    (asked .p1 codeSeizeAuthority [] live).commanded .p1 codeSeizeAuthority [] ∧
    (own codeSeizeAuthority []).commanded .p0 codeSeizeAuthority [] ∧
    (live.settings.seizeEnable = true ∧ (asked .p1 codeSeizeAuthority [] live).arbiter.holder = none ∧
      (asked .p1 codeSeizeAuthority [] live).claims (Ctrl.p1).other = false ∧
      (own codeSeizeAuthority []).arbiter.holder = some .p0) :=
  ⟨⟨rfl, rfl⟩, ⟨rfl, rfl⟩, by decide⟩

/-- P0's silence has run out while P1 waits. -/
def silent : State := { owned with arbiter := ⟨some .p0, some .p1, .running 1, .running 0⟩ }

theorem witness_HolderSilence_grants_the_waiting_port :
    silent.operating ∧ silent.arbiter.silence = .running 0 ∧ silent.arbiter.holder = some .p0 ∧
    silent.arbiter.waiting = some .p1 ∧ (silent.port .p1).enables.getLsbD 3 = true ∧
    (silent.port .p0).enables.getLsbD 2 = true :=
  ⟨rfl, by decide⟩

/-- The scheduler's stage of a rollover, with deliveries waiting behind it and P0's SET TIME in service. -/
def atScheduler (outbox : List Delivery) : State :=
  { live.setService .p0 (.serving codeSetTime [0, 0, 0] .taken) with
    time := { live.time with state := .running, rollover := some .scheduler, outbox := outbox }
    cues := { live.cues with inbox := [.rebase] } }

theorem witness_CueRebase_delivers_what_waited :
    (atScheduler [.minute 0, .event (.timeStepped .forward 0), .reply .p0]).operating ∧
    ((atScheduler [.minute 0, .event (.timeStepped .forward 0), .reply .p0]).cues.inbox = .rebase :: [] ∧
      (atScheduler [.minute 0, .event (.timeStepped .forward 0), .reply .p0]).cues.minutes = [] ∧
      (atScheduler [.minute 0, .event (.timeStepped .forward 0), .reply .p0]).time.rollover = some .scheduler ∧
      ((atScheduler [.minute 0, .event (.timeStepped .forward 0), .reply .p0]).port .p0).service =
        .serving codeSetTime [0, 0, 0] .taken ∧
      (atScheduler [.minute 0, .rollover, .minute 0]).time.outbox = .minute 0 :: .rollover :: [.minute 0]) :=
  ⟨rfl, by decide⟩

/-- A text store with the text "ABC" in row 0 and "D" in row 1. -/
def texts : TextStore := { live.store with cells := [(0, 0x41), (1, 0x42), (2, 0x43), (16, 0x44)] }

theorem witness_ListRows_fields :
    ({ defaultPlan true with timeMode := .countdown } : ChainPlan).timeMode = .countdown ∧
    ({ live.table with timed := true, working := 591 } : Table).timed = true ∧
    -- the minutes left at 600, 599, 591, 590, 501 and 500
    ([600, 599, 591, 590, 501, 500].map fun n : Int => record.effective - n) = [0, 1, 9, 10, 99, 100] ∧
    -- on a width of 24, a destination and via that fit and a longer destination beside which the via does not
    (texts.shown ⟨1, 1, by decide⟩ = [0x44] ∧ texts.shown ⟨0, 2, by decide⟩ = [0x41, 0x42] ∧
      texts.shown ⟨0, 3, by decide⟩ = [0x41, 0x42, 0x43] ∧ 2 + 1 + 1 ≤ 24 - 20 ∧ 24 - 20 < 3 + 1 + 1) ∧
    -- the remark of a live record: changed platform, else boarding, else on time
    ({ record with previous := some (3, 590) } : Record).previous ≠ none ∧
    record.delay < defaultSettings.onTimeTolerance ∧ ({ record with state := .called } : Record).state = .called ∧
    -- a minute of the day before, shown as a civil time
    (((1320 : Nat) : Int) = ((240 : Nat) + (-360 : Int)) % 1440) := by
  decide +kernel

theorem test_countdown_texts :
    [600, 591, 590, 501, 500].map (fun n : Int => ((listImage { live with
        table := { live.table with timed := true, working := n } } { defaultPlan true with timeMode := .countdown }
      record).cells.take 5)) =
    [[0x20, 0x20, 0x44, 0x75, 0x65], [0x20, 0x20, 0x39, 0x20, 0x6D], [0x20, 0x31, 0x30, 0x20, 0x6D],
      [0x20, 0x39, 0x39, 0x20, 0x6D], civilText defaultSettings.dayStart 600] := by
  decide +kernel

/-- Chain 1 waiting for the answer of row 11 of 12, which has missed two. -/
def missing : State := withLink (fun l => { l with
  state := .answerWait 11 ⟨.repeated, []⟩, rowCount := 12, modules := put l.modules 10 ⟨.absent, 2⟩ }) live

/-- A watch on one item, 1 above its present value or at it. -/
def watching (item : Nat) (value : Byte) (s : State) : State :=
  s.setPort .p1 { s.port .p1 with watch := some ⟨1#16 <<< item, List.replicate 11 value⟩ }

theorem witness_Watches_fire_at_a_change :
    -- a minute's reference is lost: the item was 1 and becomes 2, posted as 1, as 2, and not masked
    ((watching 2 1 (locked 0 0)).port .p1).watch = some ⟨4, List.replicate 11 1⟩ ∧
    (statusVector (locked 0 0))[2]? ≠
      (statusVector { locked 0 0 with time := { (locked 0 0).time with ref := .lost } })[2]? ∧
    ((watching 2 1 (locked 0 0)).port .p1).enables.getLsbD 17 = true ∧
    -- the five kinds of item
    ((asked .p1 codeRequestAuthority [] live).arbiter.holder = none ∧
      (asked .p1 codeRequestAuthority [] live).claims (Ctrl.p1).other = false ∧
      ({ (atSecond 59 true).time with state := .holding 1 } : TimeBase).state = .holding 1 ∧ (59 + 1) / 60 = 1 ∧
      (locked 0 0).time.ref = .locked ∧ (184320 : Nat) ≤ 184320 ∧ parseLine [3] = some 3 ∧
      live.clock.lines[(3 : Line)].state ≠ .off ∧ live.clock.lines[(3 : Line)].impulse = none ∧
      missing.links[(1 : Chain)].state = .answerWait 11 ⟨.repeated, []⟩ ∧ 11 = (10 : Fin 12).val + 1 ∧
      11 < missing.links[(1 : Chain)].rowCount ∧ missing.links[(1 : Chain)].modules[(10 : Fin 12)].absentRun = 2) ∧
    -- the routes of an event, and a holder
    (Event.dayRollover.route defaultRouting = some .both ∧
      Event.dayRollover.route { defaultRouting with dayRollover := .holder } = some .holder ∧
      Event.dayRollover.route { defaultRouting with dayRollover := .none } = some .none ∧
      owned.arbiter.holder = some (Ctrl.p1).other ∧ (live.port .p1).enables.getLsbD Event.dayRollover.code = true) := by
  decide +kernel

/-- R182: a release fires the watch on the authority item; the same release fires none that was posted FREE. -/
theorem test_watch_fires_at_a_release :
    (((after (.releaseAuthority .p0) (watching 0 1 (own codeReleaseAuthority []))).port .p1).watch,
      ((after (.releaseAuthority .p0) (watching 0 1 (own codeReleaseAuthority []))).port .p1).events) =
      (none, [.watchFired 1 (statusVector live)]) ∧
    ((after (.releaseAuthority .p0) (watching 0 0 (own codeReleaseAuthority []))).port .p1).events = [] := by
  decide +kernel

theorem witness_Frames_codes_and_pieces :
    (codeAllowed .cp 0x3B = true ∧ codeAllowed .cp 0x3C = false ∧ codeAllowed .p1 0x1C = true ∧
      codeAllowed .p1 0x1D = false ∧ codeAllowed .p0 0x3A = false ∧ (0x5A : Byte) ≠ 0xA5) ∧ live.operating :=
  ⟨by decide +kernel, rfl⟩

theorem witness_Announce_and_CueDone_events :
    (∀ k, ({ live.cues with playing := some ⟨cue .notice 255, false, 0⟩ } : Cues).queue k = []) ∧
    ({ live.cues with routine := [cue .call 1] } : Cues).queue .routine ≠ [] ∧
    ({ live.cues with playing := some ⟨cue .notice 255, false, 0⟩ } : Cues).playing ≠ none :=
  ⟨fun k => by cases k <;> rfl, by decide, by decide⟩

theorem witness_routes_and_due_completions :
    ((atSecond 59 true).released ∧ ∃ t, exec .secondCompletion (atSecond 59 true) = .next t) ∧
    owned.routes .holder .p0 ∧ live.routes .holder .p1 ∧ live.routes .both .p0 ∧
    ({ locked 89 1023 with time := { (locked 89 1023).time with ref := .lost } }).time.ref ≠ .locked :=
  ⟨⟨rfl, _, rfl⟩, .inr ⟨rfl, .inr rfl⟩, .inr ⟨rfl, .inl rfl⟩, .inl rfl, by decide⟩

theorem witness_SpacingExpiry_evaluates :
    (withLine 1 (lineAtMinute 584 (.running 0)) live).clock.lines[(1 : Line)].spacing = .running 0 ∧
    (lineAtMinute 584 (.running 0)).state.evaluable = true ∧ (lineAtMinute 584 (.running 0)).impulse = none ∧
    (lineAtMinute 584 (.running 0)).shown = some 584 := by
  decide +kernel

end Sys2Proof.Tests
end

section
/-! The minute pulse (1.4): what its acceptance gives (R8, R9), and what discipline makes of an error within the limit
(R11) and of a positive one beyond it (R12). -/

namespace Sys2Proof.Machine

/-! ### Events at the ports -/

theorem State.port_congr {s t : State} (h : s.ports = t.ports) (p : Port) : s.port p = t.port p := by
  cases p <;> simp only [State.port, h]

/-- Raising an event hangs on the routing items, the holder and the ports alone, not on the Time Base (R180). -/
theorem State.raiseRouted_withTime (s : State) (t : TimeBase) (e : Event) :
    ({ s with time := t } : State).raiseRouted e = { s.raiseRouted e with time := t } := by
  have raise_withTime : ∀ (s : State) (p : Port),
      ({ s with time := t } : State).raise p e = { s.raise p e with time := t } := by
    intro s p; cases p <;> rfl
  have raiseBoth_withTime : ({ s with time := t } : State).raiseBoth e = { s.raiseBoth e with time := t } := by
    simp only [State.raiseBoth, raise_withTime]
  unfold State.raiseRouted
  cases e.route s.settings.routing with
  | none => rfl
  | some r =>
    cases r with
    | both => exact raiseBoth_withTime
    | none => rfl
    | holder =>
      dsimp only
      cases s.arbiter.holder with
      | none => exact raiseBoth_withTime
      | some c => exact raise_withTime s c.port

/-- An event raised to a port where its kind is enabled stands in the port's set (R177). -/
theorem State.mem_events_raise (s : State) (p : Port) (e : Event) (on : (s.port p).enables.getLsbD e.code = true) :
    e ∈ ((s.raise p e).port p).events := by
  rw [State.port_raise, if_pos rfl]
  exact (PortState.enter_spec _ e).1 on

/-- An event raised to both control ports stands in the set of each one where its kind is enabled (R177). -/
theorem State.mem_events_raiseBoth (s : State) (q : Ctrl) (e : Event)
    (on : (s.port q.port).enables.getLsbD e.code = true) : e ∈ ((s.raiseBoth e).port q.port).events := by
  unfold State.raiseBoth
  cases q with
  | p0 =>
    rw [State.port_raise, if_neg (by decide)]
    exact s.mem_events_raise .p0 e on
  | p1 =>
    refine State.mem_events_raise _ .p1 e ?_
    rw [State.port_raise, if_neg (by decide)]
    exact on

/-- An event stands in the set of every port its routing item directs it to and where its kind is enabled (R180). -/
theorem State.mem_events_raiseRouted {s : State} {q : Ctrl} {e : Event} {r : Route}
    (route : e.route s.settings.routing = some r) (routes : s.routes r q)
    (on : (s.port q.port).enables.getLsbD e.code = true) : e ∈ ((s.raiseRouted e).port q.port).events := by
  obtain rfl | ⟨rfl, free | held⟩ := routes
  · simp only [State.raiseRouted, route]
    exact s.mem_events_raiseBoth q e on
  · simp only [State.raiseRouted, route, free]
    exact s.mem_events_raiseBoth q e on
  · simp only [State.raiseRouted, route, held]
    exact s.mem_events_raise q.port e on

/-! ### Events and watches leave the enables -/

theorem State.enables_setPort (s : State) (p q : Port) (x : PortState) (h : x.enables = (s.port p).enables) :
    ((s.setPort p x).port q).enables = (s.port q).enables := by
  rw [State.port_setPort_cases]
  split
  · next e => rw [e, h]
  · rfl

@[simp] theorem State.enables_raise (s : State) (p q : Port) (e : Event) :
    ((s.raise p e).port q).enables = (s.port q).enables :=
  State.enables_setPort s p q _ (PortState.enter_enables _ e)

@[simp] theorem State.enables_raiseRouted (s : State) (q : Port) (e : Event) :
    ((s.raiseRouted e).port q).enables = (s.port q).enables := by
  unfold State.raiseRouted
  split
  · simp [State.raiseBoth]
  · split <;> simp [State.raiseBoth]
  · rfl
  · rfl

@[simp] theorem State.enables_offerTo (c : Ctrl) (before : List Byte) (s : State) (q : Port) :
    ((State.offerTo c before s).port q).enables = (s.port q).enables := by
  unfold State.offerTo
  split
  · rfl
  · split
    · rw [State.fireWatch_spec]
      exact State.enables_setPort s c.port q _ (PortState.enter_enables _ _)
    · rfl

@[simp] theorem State.enables_noted (s t : State) (q : Port) : ((s.noted t).port q).enables = (t.port q).enables := by
  simp [State.noted]

/-! ### The acceptance of a pulse (R8, R9) -/

/-- The state with an accepted pulse counted and its interval restarted (R8). -/
def State.pulseCounted (s : State) : State :=
  { s with time := { s.time with accepted := increment s.time.accepted, pulseInterval := some 0 } }

/-- The state with a pulse accepted, before discipline acts on it (R8, R9). -/
def State.pulseAccepted (s : State) : State := lockReference s.pulseCounted

theorem TimeBase.acceptsPulse_of_interval {t : TimeBase}
    (due : t.pulseInterval = none ∨ ∃ ticks, t.pulseInterval = some ticks ∧ 51200 ≤ ticks) :
    t.acceptsPulse = true := by
  obtain absent | ⟨ticks, running, h⟩ := due
  · simp [TimeBase.acceptsPulse, absent]
  · simp [TimeBase.acceptsPulse, running, h]

/-- An accepted pulse makes the reference LOCKED (R9). -/
theorem lockReference_time (s : State) : (lockReference s).time = { s.time with ref := .locked } := by
  unfold lockReference
  split
  · next h => rw [← h]
  · simp [State.setRef]

/-- An accepted pulse changes at the reference state the Time Base and the ports alone (R9). -/
theorem lockReference_spec (s : State) :
    lockReference s = { s with time := (lockReference s).time, ports := (lockReference s).ports } := by
  unfold lockReference
  split
  · rfl
  · apply State.eq_of_fields <;> simp [State.setRef]

theorem lockReference_locked {s : State} (h : s.time.ref = .locked) : lockReference s = s := if_pos h

/-- Where no watch is kept, the reference that becomes LOCKED raises TIME_REF_REGAINED and nothing else (R9). -/
theorem lockReference_unwatched {s : State} (h : s.time.ref ≠ .locked) (h0 : s.ports.p0.watch = none)
    (h1 : s.ports.p1.watch = none) :
    lockReference s = ({ s with time := { s.time with ref := .locked } } : State).raiseRouted .timeRefRegained := by
  rw [lockReference, if_neg h, State.setRef]
  exact congrArg (State.raiseRouted · .timeRefRegained) (State.noted_unwatched s _ h0 h1)

@[simp] theorem enables_lockReference (s : State) (q : Port) :
    ((lockReference s).port q).enables = (s.port q).enables := by
  unfold lockReference
  split
  · rfl
  · rw [State.enables_raiseRouted, State.setRef, State.enables_noted]
    cases q <;> rfl

theorem State.pulseAccepted_time (s : State) :
    s.pulseAccepted.time = { s.time with
      ref := .locked, pulseInterval := some 0
      accepted := if s.time.accepted = 0xFFFF then 0xFFFF else s.time.accepted + 1 } := by
  have counted : increment s.time.accepted =
      if s.time.accepted = 0xFFFF then 0xFFFF else s.time.accepted + 1 := by
    unfold increment
    split
    · assumption
    · rfl
  rw [State.pulseAccepted, lockReference_time, ← counted]
  rfl

/-- The acceptance of a pulse changes the Time Base and the ports alone. -/
theorem State.pulseAccepted_spec (s : State) :
    s.pulseAccepted = { s with time := s.pulseAccepted.time, ports := s.pulseAccepted.ports } := by
  rw [State.pulseAccepted, lockReference_spec]
  rfl

theorem State.pulseAccepted_ports_locked {s : State} (h : s.time.ref = .locked) : s.pulseAccepted.ports = s.ports := by
  have same : s.pulseAccepted = s.pulseCounted := lockReference_locked h
  rw [same]
  rfl

theorem State.pulseAccepted_ports_unwatched {s : State} (h : s.time.ref ≠ .locked) (h0 : s.ports.p0.watch = none)
    (h1 : s.ports.p1.watch = none) : s.pulseAccepted.ports = (s.raiseRouted .timeRefRegained).ports := by
  have regained : s.pulseAccepted = ({ s with time := { s.pulseCounted.time with ref := .locked } } : State).raiseRouted
      .timeRefRegained := lockReference_unwatched (s := s.pulseCounted) h h0 h1
  rw [regained, State.raiseRouted_withTime]

@[simp] theorem State.pulseAccepted_enables (s : State) (q : Port) :
    (s.pulseAccepted.port q).enables = (s.port q).enables := by
  rw [State.pulseAccepted, enables_lockReference]
  cases q <;> rfl

/-- A pulse that arrives 50 s or more after the last accepted one, in RUNNING or HOLDING, is accepted and disciplines
the count (R8, R10). -/
theorem exec_minutePulse_accepted {s : State} (released : s.released) (set : s.time.state ≠ .unset)
    (due : s.time.pulseInterval = none ∨ ∃ ticks, s.time.pulseInterval = some ticks ∧ 51200 ≤ ticks) :
    exec .minutePulse s = .next (discipline s.pulseAccepted) := by
  have state : s.pulseAccepted.time.state = s.time.state := by rw [State.pulseAccepted_time]
  show execMinutePulse s = _
  rw [execMinutePulse, whenReleased_released released, if_pos (TimeBase.acceptsPulse_of_interval due)]
  dsimp only
  split
  · next unset => exact absurd (state.symm.trans unset) set
  · rfl
  · rfl

/-! What discipline reads, the acceptance of the pulse leaves as it was. -/

@[simp] theorem State.pulseAccepted_capture (s : State) : s.pulseAccepted.time.capture = s.time.capture := by
  rw [State.pulseAccepted_time]
  rfl

@[simp] theorem State.pulseAccepted_second (s : State) : s.pulseAccepted.time.second = s.time.second := by
  rw [State.pulseAccepted_time]

@[simp] theorem State.pulseAccepted_rollover (s : State) : s.pulseAccepted.time.rollover = s.time.rollover := by
  rw [State.pulseAccepted_time]

@[simp] theorem State.pulseAccepted_boardMinute (s : State) :
    s.pulseAccepted.time.boardMinute = s.time.boardMinute := by
  rw [State.pulseAccepted_time]
  rfl

@[simp] theorem State.pulseAccepted_settings (s : State) : s.pulseAccepted.settings = s.settings := by
  rw [State.pulseAccepted_spec]

@[simp] theorem State.pulseAccepted_arbiter (s : State) : s.pulseAccepted.arbiter = s.arbiter := by
  rw [State.pulseAccepted_spec]

/-! ### Deliveries of one event (log 13) -/

/-- With no rollover in progress a posted event is raised at once, and nothing waits (log 13). -/
theorem State.post_event_now {s : State} (h : s.time.rollover = none) (e : Event) :
    s.post [.event e] = { s.raiseRouted e with time := { s.time with outbox := [] } } := by
  simp [State.post, h, deliver]

/-- A posted event changes the outbox and the ports alone, in a rollover or out of one (log 13). -/
theorem State.post_event_spec (s : State) (e : Event) :
    s.post [.event e] = { s with
      time := { s.time with outbox := (s.post [.event e]).time.outbox }, ports := (s.post [.event e]).ports } := by
  cases h : s.time.rollover with
  | none =>
    rw [State.post_event_now h]
    apply State.eq_of_fields <;> simp
  | some stage => simp [State.post, h]

/-! ### Discipline (R10 to R12) -/

/-- An error within the limit replaces Q and nothing else (R11). -/
theorem discipline_within {s : State} (h : (pulseError s.time.capture).natAbs ≤ s.settings.stepLimit * 1024) :
    discipline s = { s with time := { s.time with slew := -pulseError s.time.capture } } := if_pos h

/-- The state stepped back to the start of its minute, its event not raised yet (R12). -/
def State.steppedBack (s : State) : State :=
  { s with time := s.time.setSecond (s.time.second - s.time.second % 60) }

/-- The start of a minute lies in that minute. -/
theorem startOfMinute_div (second : Nat) : (second - second % 60) / 60 = second / 60 := by omega

/-- A step back to the start of the minute leaves the board minute (R12). -/
theorem State.steppedBack_boardMinute (s : State) : s.steppedBack.time.boardMinute = s.time.boardMinute := by
  simp only [State.steppedBack, TimeBase.setSecond, TimeBase.boardMinute, startOfMinute_div]

/-- A capture in the first half of the minute whose error exceeds the limit steps back and posts TIME_STEPPED with the
board minute (R12). -/
theorem discipline_back {s : State} (early : s.time.capture < 30720)
    (beyond : s.settings.stepLimit * 1024 < s.time.capture) :
    discipline s = s.steppedBack.post [.event (.timeStepped .pulseStep s.time.boardMinute)] := by
  have error : pulseError s.time.capture = s.time.capture := if_pos early
  have far : ¬ ((s.time.capture : Int).natAbs ≤ s.settings.stepLimit * 1024) := by omega
  have late : (s.time.capture : Int) > 0 := by omega
  rw [discipline, error, if_neg far, if_pos late, ← s.steppedBack_boardMinute]
  rfl

/-- The step back, in terms of the state it starts from: the new time, the frame, and, with no rollover in progress,
the raising of TIME_STEPPED (R12). -/
theorem discipline_back_spec {s : State} (early : s.time.capture < 30720)
    (beyond : s.settings.stepLimit * 1024 < s.time.capture) :
    (discipline s).time = { s.time with
      second := s.time.second - s.time.second % 60, tick := 0, slew := 0, adjustment := .normal, secondTicks := 0
      completionDue := false, outbox := (discipline s).time.outbox } ∧
    discipline s = { s with time := (discipline s).time, ports := (discipline s).ports } ∧
    (s.time.rollover = none → (discipline s).time.outbox = [] ∧
      (discipline s).ports = (s.raiseRouted (.timeStepped .pulseStep s.time.boardMinute)).ports) := by
  rw [discipline_back early beyond]
  have frame := s.steppedBack.post_event_spec (.timeStepped .pulseStep s.time.boardMinute)
  refine ⟨?_, ?_, fun idle => ?_⟩
  · rw [frame]; rfl
  · rw [frame]; rfl
  · rw [State.post_event_now (s := s.steppedBack) idle, State.steppedBack, State.raiseRouted_withTime]
    exact ⟨rfl, rfl⟩

end Sys2Proof.Machine
end

section

open Sys2Proof Sys2Proof.Machine

/-- Settles O16: the pulse is accepted, and discipline, whose capture the acceptance leaves, replaces Q alone. -/
theorem pulseWithinTheLimitSetsTheSlew : Obligations.PulseWithinTheLimitSetsTheSlew := by
  intro s c e released set due capture error within limit
  have slew : discipline s.pulseAccepted = { s.pulseAccepted with time := { s.pulseAccepted.time with slew := -e } } := by
    have e_eq : pulseError s.pulseAccepted.time.capture = e := by
      rw [State.pulseAccepted_capture, error, capture]
      rfl
    rw [← e_eq]
    exact discipline_within (by rw [e_eq, State.pulseAccepted_settings]; exact within)
  refine ⟨_, exec_minutePulse_accepted released set due, ?_⟩
  rw [slew]
  refine ⟨?_, State.pulseAccepted_ports_locked, State.pulseAccepted_ports_unwatched, ?_, ?_⟩
  · rw [State.pulseAccepted_spec, State.pulseAccepted_time]
  · show -8192 ≤ -e
    omega
  · show -e ≤ 8192
    omega

/-- Settles O17: the accepted pulse steps the time back, and the TIME_STEPPED it posts touches the outbox and the ports
alone; out of a rollover it is raised at once. -/
theorem pulseBeyondTheLimitStepsBack : Obligations.PulseBeyondTheLimitStepsBack := by
  intro s c released set due capture early beyond
  have captured : s.pulseAccepted.time.capture = c := s.pulseAccepted_capture.trans capture.symm
  have far : s.pulseAccepted.settings.stepLimit * 1024 < s.pulseAccepted.time.capture := by
    rw [captured, State.pulseAccepted_settings]
    exact beyond
  obtain ⟨time, frame, raised⟩ := discipline_back_spec (captured ▸ early) far
  rw [State.pulseAccepted_second] at time
  rw [State.pulseAccepted_rollover, State.pulseAccepted_boardMinute] at raised
  refine ⟨s.pulseAccepted, discipline s.pulseAccepted, exec_minutePulse_accepted released set due, ?_,
    State.pulseAccepted_ports_locked, State.pulseAccepted_ports_unwatched, time, ?_, frame, raised, ?_⟩
  · rw [← State.pulseAccepted_time]
    exact s.pulseAccepted_spec
  · rw [time]
    exact startOfMinute_div s.time.second
  · intro q idle routes on
    rw [State.port_congr (raised idle).2]
    refine State.mem_events_raiseRouted (r := s.settings.routing.timeStepped) ?_ ?_ ?_
    · rw [State.pulseAccepted_settings]
      rfl
    · rwa [State.routes, State.pulseAccepted_arbiter]
    · rw [State.pulseAccepted_enables]
      exact on

end

section
/-! DISCARD STAGING (5.2): serving a command of the holder that carries no payload, and the commutation of a staging
buffer's replacement with the service of a port (R90). -/

namespace Sys2Proof.Machine

/-! ### Service and staging buffers do not touch each other -/

@[simp] theorem State.staging_setService (s : State) (p : Port) (v : Service) (c : Ctrl) :
    (s.setService p v).staging c = s.staging c := by
  cases c <;> simp only [State.staging, State.setService_store]

theorem State.setStaging_setService (s : State) (p : Port) (v : Service) (c : Ctrl) (b : Staging) :
    (s.setService p v).setStaging c b = (s.setStaging c b).setService p v := by
  cases c <;> cases p <;> rfl

/-- A command of the holder that carries no payload, served: the authority check and the payload check pass (R79). -/
theorem serve_authorised_withoutPayload {s : State} {c : Ctrl} {code : Byte} (h : s.commanded c.port code [])
    (holds : s.arbiter.holder = some c) (f : State → Served) :
    serve c.port code (authorised c (withoutPayload f)) s =
      .next ((f (s.setService c.port (.serving code [] .taken))).finish c.port) := by
  rw [serve_commanded h, authorised, State.setService_arbiter, if_pos holds, withoutPayload, if_pos rfl]

/-- DISCARD STAGING of the holder empties its buffer and replies DONE, and that is its whole effect (R90). -/
theorem exec_discardStaging {s : State} {c : Ctrl} (h : s.commanded c.port codeDiscardStaging [])
    (holds : s.arbiter.holder = some c) :
    exec (.discardStaging c) s = .next ((s.emptyStaging c).answered c.port codeDiscardStaging [] ⟨.done, []⟩) := by
  have taken_then_emptied : discardServed c (s.setService c.port (.serving codeDiscardStaging [] .taken)) =
      done ((s.emptyStaging c).setService c.port (.serving codeDiscardStaging [] .taken)) [] := by
    rw [discardServed, State.staging_setService, State.setStaging_setService, State.emptyStaging]
  show execDiscardStaging c s = _
  rw [execDiscardStaging, serve_authorised_withoutPayload h holds, taken_then_emptied, done, Served.finish]
  exact congrArg _ (State.answer_setService_taken ..)

end Sys2Proof.Machine
end

section

open Sys2Proof Sys2Proof.Machine

/-- Settles O35: the whole effect is the emptied buffer and the reply, and replacing a buffer leaves the engine. -/
theorem discardEmptiesTheBufferAlone : Obligations.DiscardEmptiesTheBufferAlone := by
  intro c s commanded holds
  obtain ⟨row, column, cells, -, -⟩ := s.emptyStaging_spec c
  simp only [State.emptyStaging, State.staging_setStaging] at row column cells
  exact ⟨(s.staging c).emptied, exec_discardStaging commanded holds, row, column, cells, s.setStaging_engine c _⟩

end

section
/-! What every operation of the part keeps: the queue of waiting commands and the invariants of 5.1, R177, R136, R71 and
R23, one lemma for each operation; the 90 commands are then put together from these. -/

namespace Sys2Proof.Machine

/-! ### The relation -/

/-- From one state to another the queue of waiting commands stands, and each invariant of a safe run is kept. -/
structure State.Keeps (s t : State) : Prop where
  pending : t.pending = s.pending
  text : s.textCanonical → t.textCanonical
  attention : s.attentionFollows → t.attentionFollows
  ascending : s.eventsAscending → t.eventsAscending
  queues : s.queuesBounded → t.queuesBounded
  wait : s.waitSound → t.waitSound
  list : s.listSound → t.listSound
  sorted : s.listSound → s.listSorted → t.listSorted

theorem State.Keeps.refl (s : State) : s.Keeps s :=
  ⟨rfl, id, id, id, id, id, id, fun _ h => h⟩

theorem State.Keeps.trans {s t u : State} (h : s.Keeps t) (k : t.Keeps u) : s.Keeps u where
  pending := k.pending.trans h.pending
  text := k.text ∘ h.text
  attention := k.attention ∘ h.attention
  ascending := k.ascending ∘ h.ascending
  queues := k.queues ∘ h.queues
  wait := k.wait ∘ h.wait
  list := k.list ∘ h.list
  sorted := fun sound sorted => k.sorted (h.list sound) (h.sorted sound sorted)

theorem State.Keeps.comp {s t u : State} (k : t.Keeps u) (h : s.Keeps t) : s.Keeps u := h.trans k

/-- Where a case split decides between two states, each kept, the outcome is kept. -/
theorem State.Keeps.ite {s t u : State} {c : Prop} [Decidable c] (h : c → s.Keeps t) (k : ¬c → s.Keeps u) :
    s.Keeps (if c then t else u) := by
  split
  · exact h ‹_›
  · exact k ‹_›

/-- A fold keeps what each of its steps keeps. -/
theorem State.Keeps.foldl {α : Type} {f : State → α → State} (h : ∀ (s : State) (a : α), s.Keeps (f s a))
    (l : List α) (s : State) :
    s.Keeps (l.foldl f s) := by
  induction l generalizing s with
  | nil => exact .refl s
  | cons a l ih => exact (h s a).trans (ih (f s a))

/-! ### One component of the state changed -/

/-- A change of anything that no invariant speaks of. -/
theorem State.Keeps.ofEq {s t : State} (pending : t.pending = s.pending) (cells : t.store.cells = s.store.cells)
    (ports : t.ports = s.ports) (queues : t.cues.queue = s.cues.queue) (arbiter : t.arbiter = s.arbiter)
    (slots : t.table.slots = s.table.slots) (order : t.table.order = s.table.order) : s.Keeps t := by
  have port : ∀ p, t.port p = s.port p := State.port_congr ports
  constructor
  · exact pending
  all_goals
    simp only [State.textCanonical, State.attentionFollows, State.eventsAscending, State.queuesBounded,
      State.waitSound, State.listSound, State.listSorted, cells, port, queues, arbiter, slots, order]
  all_goals tauto

/-- The commands that a row's storage can stand against: a change of the text memory that keeps its canonical form. -/
theorem State.keeps_store (s : State) (x : TextStore) (h : Memory.wf s.store.cells = true → Memory.wf x.cells = true) :
    s.Keeps { s with store := x } :=
  ⟨rfl, h, id, id, id, id, id, fun _ k => k⟩

theorem State.keeps_arbiter (s : State) (x : Arbiter) (h : s.waitSound → ({ s with arbiter := x } : State).waitSound) :
    s.Keeps { s with arbiter := x } :=
  ⟨rfl, id, id, id, id, h, id, fun _ k => k⟩

theorem State.keeps_cues (s : State) (x : Cues)
    (h : s.queuesBounded → ∀ k, (x.queue k).length ≤ 16) : s.Keeps { s with cues := x } :=
  ⟨rfl, id, id, id, h, id, id, fun _ k => k⟩

theorem State.keeps_table (s : State) (x : Table)
    (list : s.listSound → ({ s with table := x } : State).listSound)
    (sorted : s.listSound → s.listSorted → ({ s with table := x } : State).listSorted) :
    s.Keeps { s with table := x } :=
  ⟨rfl, id, id, id, id, id, list, sorted⟩

/-- A port's record replaced by one whose set has its attention line following it, in ascending code. -/
theorem State.keeps_setPort (s : State) (p : Port) (x : PortState)
    (attention : (s.port p).attention = !(s.port p).events.isEmpty → x.attention = !x.events.isEmpty)
    (ascending : ((s.port p).events.map Event.code).Pairwise (· < ·) → (x.events.map Event.code).Pairwise (· < ·)) :
    s.Keeps (s.setPort p x) where
  pending := s.setPort_pending p x
  text h := by rw [State.textCanonical, s.setPort_store p x]; exact h
  attention h q := by
    rw [State.port_setPort_cases]
    split
    · exact attention (h p)
    · exact h q
  ascending h q := by
    rw [State.port_setPort_cases]
    split
    · exact ascending (h p)
    · exact h q
  queues h := by rw [State.queuesBounded, s.setPort_cues p x]; exact h
  wait h := by rw [State.waitSound, s.setPort_arbiter p x]; exact h
  list h := by rw [State.listSound, s.setPort_table p x]; exact h
  sorted _ h := by rw [State.listSorted, s.setPort_table p x]; exact h

/-! ### Ports and events (10.3, 10.4) -/

/-- A port's record replaced by one with the same set and the same attention line. -/
theorem State.keeps_setPort_events (s : State) (p : Port) (x : PortState) (events : x.events = (s.port p).events)
    (attention : x.attention = (s.port p).attention) : s.Keeps (s.setPort p x) :=
  s.keeps_setPort p x (fun h => by rw [attention, events, h]) (fun h => by rw [events]; exact h)

/-- A port's set replaced by part of itself: the line follows it (R177). -/
theorem State.keeps_withEvents (s : State) (p : Port) (x : PortState) {es : List Event}
    (h : es.Sublist (s.port p).events) : s.Keeps (s.setPort p (x.withEvents es)) :=
  s.keeps_setPort p _ (fun _ => rfl) (fun k => k.sublist (h.map Event.code))

theorem State.keeps_setService (s : State) (p : Port) (v : Service) : s.Keeps (s.setService p v) :=
  s.keeps_setPort_events p _ rfl rfl

theorem State.keeps_setReceiver (s : State) (p : Port) (r : Receiver) : s.Keeps (s.setReceiver p r) :=
  s.keeps_setPort_events p _ rfl rfl

theorem State.keeps_answer (s : State) (p : Port) (r : Reply) : s.Keeps (s.answer p r) := by
  unfold State.answer
  split
  · exact s.keeps_setService p _
  · exact .refl s

theorem State.keeps_take (s : State) (p : Port) : s.Keeps (s.take p) := by
  unfold State.take
  split
  · exact s.keeps_setService p _
  · exact .refl s

/-- An event raised stands at the place its code demands, and the line is ASSERTED (R177). -/
theorem State.keeps_raise (s : State) (p : Port) (e : Event) : s.Keeps (s.raise p e) := by
  refine s.keeps_setPort p _ (fun h => ?_) (fun h => ?_)
  · unfold PortState.enter
    split
    · rfl
    · exact h
  · unfold PortState.enter
    split
    · exact (insertEvent_ascending e h).1
    · exact h

theorem State.keeps_raiseBoth (s : State) (e : Event) : s.Keeps (s.raiseBoth e) :=
  (s.keeps_raise .p0 e).trans (State.keeps_raise _ .p1 e)

theorem State.keeps_raiseRouted (s : State) (e : Event) : s.Keeps (s.raiseRouted e) := by
  unfold State.raiseRouted
  split
  · exact s.keeps_raiseBoth e
  · split
    · exact s.keeps_raise _ e
    · exact s.keeps_raiseBoth e
  · exact .refl s
  · exact .refl s

theorem State.keeps_raiseAll (s : State) (es : List Event) : s.Keeps (s.raiseAll es) := by
  induction es generalizing s with
  | nil => exact .refl s
  | cons e es ih => exact (s.keeps_raiseRouted e).trans (ih _)

theorem State.keeps_fireWatch (s : State) (c : Ctrl) (items : BitVec 16) : s.Keeps (s.fireWatch c items) :=
  (s.keeps_setPort_events c.port { s.port c.port with watch := none } rfl rfl).trans (State.keeps_raise _ _ _)

theorem State.keeps_offerTo (c : Ctrl) (before : List Byte) (s : State) : s.Keeps (State.offerTo c before s) := by
  unfold State.offerTo
  split
  · exact .refl s
  · exact .ite (fun _ => s.keeps_fireWatch c _) fun _ => .refl s

/-- A change offered to the watches keeps what the change keeps. -/
theorem State.Keeps.noted {s t : State} (h : s.Keeps t) (old : State) : s.Keeps (old.noted t) :=
  h.trans ((State.keeps_offerTo .p0 _ t).trans (State.keeps_offerTo .p1 _ _))

/-! ### Paths between the blocks and deliveries (R3, R26; logs 12, 13) -/

theorem State.keeps_hand (s : State) (o : Option Ctrl) (ns : List Notification) : s.Keeps (s.hand o ns) :=
  .ofEq rfl rfl rfl rfl rfl rfl rfl

theorem keeps_deliver (ds : List Delivery) (s : State) : s.Keeps (deliver ds s) := by
  induction ds generalizing s with
  | nil => exact .ofEq rfl rfl rfl rfl rfl rfl rfl
  | cons d ds ih =>
    cases d with
    | rollover => exact .ofEq rfl rfl rfl rfl rfl rfl rfl
    | minute n => exact State.Keeps.trans (t := s.sendMinute n) (.ofEq rfl rfl rfl rfl rfl rfl rfl) (ih _)
    | event e => exact (s.keeps_raiseRouted e).trans (ih _)
    | reply c => exact (s.keeps_answer _ _).trans (ih _)

theorem State.keeps_post (s : State) (ds : List Delivery) : s.Keeps (s.post ds) := by
  unfold State.post
  split
  · exact keeps_deliver ds s
  · exact .ofEq rfl rfl rfl rfl rfl rfl rfl

/-- A change of the Time Base that is then delivered. -/
theorem State.keeps_withTime (s : State) (t : TimeBase) : s.Keeps { s with time := t } :=
  .ofEq rfl rfl rfl rfl rfl rfl rfl

/-! ### What a command answers -/

/-- Every state that an outcome goes on with is kept. -/
def KeepsResult (s : State) (r : Result) : Prop := ∀ t, r = .next t → s.Keeps t

theorem keepsResult_next {s t : State} (h : s.Keeps t) : KeepsResult s (.next t) := by
  rintro _ ⟨rfl⟩
  exact h

theorem keepsResult_whenOperating {s : State} {f : State → State} (h : s.Keeps (f s)) :
    KeepsResult s (whenOperating s f) :=
  keepsResult_next (.ite (fun _ => h) fun _ => .refl s)

theorem keepsResult_whenReleased {s : State} {f : State → State} (h : s.Keeps (f s)) :
    KeepsResult s (whenReleased s f) :=
  keepsResult_next (.ite (fun _ => .refl s) fun _ => h)

theorem keepsResult_serve {p : Port} {code : Byte} {f : List Byte → State → Served}
    (h : ∀ (payload : List Byte) (s : State), s.Keeps (f payload s).1) (s : State) : KeepsResult s (serve p code f s) := by
  unfold serve
  split
  · split
    · next c payload _ =>
      split
      · have taken := s.keeps_setService p (.serving c payload .taken)
        have served := h payload (s.setService p (.serving c payload .taken))
        split
        · next e => rw [e] at served; exact keepsResult_next ((taken.trans served).trans (State.keeps_answer _ p _))
        · next e => rw [e] at served; exact keepsResult_next (taken.trans served)
      · exact keepsResult_next (.refl s)
    · exact keepsResult_next (.refl s)
  · exact keepsResult_next (.refl s)

theorem keeps_authorised {c : Ctrl} {f : List Byte → State → Served}
    (h : ∀ (payload : List Byte) (s : State), s.Keeps (f payload s).1)
    (payload : List Byte) (s : State) : s.Keeps (authorised c f payload s).1 := by
  unfold authorised
  split
  · exact h payload s
  · exact .refl s

theorem keeps_withoutPayload {f : State → Served} (h : ∀ s : State, s.Keeps (f s).1) (payload : List Byte) (s : State) :
    s.Keeps (withoutPayload f payload s).1 := by
  unfold withoutPayload
  split
  · exact h s
  · exact .refl s

theorem keeps_parsed {α : Type} {parse : List Byte → Option α} {f : α → State → Served}
    (h : ∀ (x : α) (s : State), s.Keeps (f x s).1) (payload : List Byte) (s : State) :
    s.Keeps (parsed parse f payload s).1 := by
  unfold parsed
  split
  · exact h _ s
  · exact .refl s

theorem keeps_withRecord {s : State} {code : List Byte} {f : Slot → Record → Served}
    (h : ∀ i r, s.table.slots[i] = some r → s.Keeps (f i r).1) : s.Keeps (withRecord s code f).1 := by
  unfold withRecord
  split
  · exact .refl s
  · split
    · exact .refl s
    · exact h _ _ ‹_›

end Sys2Proof.Machine
end

section
/-! The departure list (R23): every operation of the table keeps it holding each occupied slot once, in ascending sort
key. -/

namespace Sys2Proof.Machine

/-! ### The sort key -/

/-- What of a record its place in the list hangs on, its slot apart (R23). -/
def Record.key (r : Record) : Int × Int := (r.sortMinute, r.sched)

/-- A key, with the slot that holds it, stands before another (R23). -/
def keyBefore (a b : Int × Int) (i j : Slot) : Prop :=
  a.1 < b.1 ∨ a.1 = b.1 ∧ (a.2 < b.2 ∨ a.2 = b.2 ∧ i < j)

theorem keyBefore_trans {a b c : Int × Int} {i j k : Slot} (h : keyBefore a b i j) (h' : keyBefore b c j k) :
    keyBefore a c i k := by
  unfold keyBefore at *
  rw [Fin.lt_def] at *
  omega

theorem keyBefore_of_not {a b : Int × Int} {i j : Slot} (hne : i ≠ j) (h : ¬keyBefore a b i j) : keyBefore b a j i := by
  unfold keyBefore at *
  rw [Fin.lt_def] at *
  have : i.val ≠ j.val := fun e => hne (Fin.ext e)
  omega

/-- The list of a table, in the terms of R23. -/
def Table.sound (t : Table) : Prop := t.order.Nodup ∧ ∀ i : Slot, i ∈ t.order ↔ t.slots[i].isSome = true

/-- The slots stand one before the other by their keys in a table. -/
def Table.before (t : Table) (i j : Slot) : Prop :=
  ∀ a b : Record, t.slots[i] = some a → t.slots[j] = some b → keyBefore a.key b.key i j

def Table.sorted (t : Table) : Prop := t.order.Pairwise t.before

theorem State.listSound_iff (s : State) : s.listSound ↔ s.table.sound := Iff.rfl

theorem State.listSorted_iff (s : State) : s.listSorted ↔ s.table.sorted := Iff.rfl

theorem Table.keyLt_iff {t : Table} {i j : Slot} {a b : Record} (hi : t.slots[i] = some a) (hj : t.slots[j] = some b) :
    t.keyLt i j = true ↔ keyBefore a.key b.key i j := by
  simp only [Table.keyLt, hi, hj, keyBefore, Record.key, Bool.or_eq_true, Bool.and_eq_true, decide_eq_true_eq]

/-! ### Insertion -/

/-- A slot inserted into an ascending list of occupied slots stands where its key demands. -/
theorem Table.insertOrdered_pairwise {t : Table} {i : Slot} (hi : t.slots[i].isSome = true) (l : List Slot)
    (occupied : ∀ j ∈ l, t.slots[j].isSome = true) (absent : i ∉ l) (sorted : l.Pairwise t.before) :
    (t.insertOrdered i l).Pairwise t.before := by
  obtain ⟨a, ha⟩ := Option.isSome_iff_exists.mp hi
  induction l with
  | nil => simp [Table.insertOrdered]
  | cons j js ih =>
    obtain ⟨b, hb⟩ := Option.isSome_iff_exists.mp (occupied j (by simp))
    obtain ⟨hne, habsent⟩ := List.ne_and_not_mem_of_not_mem_cons absent
    obtain ⟨hj, hjs⟩ := List.pairwise_cons.mp sorted
    unfold Table.insertOrdered
    split
    · next hlt =>
      have hij := (Table.keyLt_iff ha hb).mp hlt
      refine List.pairwise_cons.mpr ⟨fun k hk x y hx hy => ?_, sorted⟩
      rw [ha, Option.some.injEq] at hx
      subst hx
      rcases List.mem_cons.mp hk with rfl | hk
      · rw [hb, Option.some.injEq] at hy
        exact hy ▸ hij
      · exact keyBefore_trans hij (hj k hk b y hb hy)
    · next hlt =>
      refine List.pairwise_cons.mpr ⟨fun k hk => ?_, ih (fun k hk => occupied k (by simp [hk])) habsent hjs⟩
      rcases (t.mem_insertOrdered i k js).mp hk with rfl | hk
      · intro x y hx hy
        rw [hb, Option.some.injEq] at hx
        rw [ha, Option.some.injEq] at hy
        subst hx hy
        exact keyBefore_of_not hne (fun h => hlt ((Table.keyLt_iff ha hb).mpr h))
      · exact hj k hk

/-! ### What the table's operations keep -/

/-- From one table to another the list stays sound, and stays in order. -/
structure Table.Keeps (t u : Table) : Prop where
  sound : t.sound → u.sound
  sorted : t.sound → t.sorted → u.sorted

theorem Table.Keeps.refl (t : Table) : t.Keeps t := ⟨id, fun _ h => h⟩

theorem Table.Keeps.trans {t u v : Table} (h : t.Keeps u) (k : u.Keeps v) : t.Keeps v :=
  ⟨k.sound ∘ h.sound, fun sound sorted => k.sorted (h.sound sound) (h.sorted sound sorted)⟩

/-- The order of two slots hangs on the keys they hold. -/
theorem Table.before_congr {t u : Table} {i j : Slot} (hi : (u.slots[i]).map Record.key = (t.slots[i]).map Record.key)
    (hj : (u.slots[j]).map Record.key = (t.slots[j]).map Record.key) (h : t.before i j) : u.before i j := by
  intro a b ha hb
  rw [ha, Option.map_some, eq_comm, Option.map_eq_some_iff] at hi
  rw [hb, Option.map_some, eq_comm, Option.map_eq_some_iff] at hj
  obtain ⟨a', ha', ea⟩ := hi
  obtain ⟨b', hb', eb⟩ := hj
  exact ea ▸ eb ▸ h a' b' ha' hb'

theorem isSome_of_map_eq {α β : Type} {f : α → β} {x y : Option α} (h : x.map f = y.map f) :
    x.isSome = y.isSome := by
  rw [← Option.isSome_map (f := f), h, Option.isSome_map]

/-- A change that leaves the list and the key of every slot. -/
theorem Table.Keeps.ofKeys {t u : Table} (order : u.order = t.order)
    (keys : ∀ i : Slot, (u.slots[i]).map Record.key = (t.slots[i]).map Record.key) : t.Keeps u where
  sound := fun ⟨nodup, mem⟩ =>
    ⟨order ▸ nodup, fun i => by rw [order, isSome_of_map_eq (keys i)]; exact mem i⟩
  sorted := fun _ sorted => by
    rw [Table.sorted, order]
    exact sorted.imp fun h => Table.before_congr (keys _) (keys _) h

theorem map_key_of_unflagged {x y : Option Record} (h : x.map Record.unflagged = y.map Record.unflagged) :
    x.map Record.key = y.map Record.key := by
  have key_unflagged : Record.key ∘ Record.unflagged = Record.key := by
    funext r
    cases r
    rfl
  have := congrArg (Option.map Record.key) h
  rwa [Option.map_map, Option.map_map, key_unflagged] at this

theorem Table.keeps_checked (t : Table) (w : Nat) : t.Keeps (t.checked w) :=
  .ofKeys (t.checked_order w) fun i => map_key_of_unflagged ((t.checked_spec w).1 i)

theorem Table.keeps_hold (t : Table) {i : Slot} {r r' : Record} (h : t.slots[i] = some r) (key : r'.key = r.key) :
    t.Keeps (t.hold i r') := by
  refine .ofKeys rfl fun j => ?_
  simp only [Table.hold, Fin.getElem_fin, put_get]
  split
  · next e =>
    subst e
    simp only [Fin.getElem_fin] at h
    simp [h, key]
  · rfl

theorem Table.keeps_free (t : Table) (i : Slot) : t.Keeps (t.free i) := by
  obtain ⟨emptied, others, order, -, -⟩ := t.free_spec i
  have keys : ∀ j, j ≠ i → ((t.free i).slots[j]).map Record.key = (t.slots[j]).map Record.key :=
    fun j hj => map_key_of_unflagged (others j hj)
  constructor
  · rintro ⟨nodup, mem⟩
    refine ⟨order ▸ nodup.filter _, fun j => ?_⟩
    rw [order, List.mem_filter, bne_iff_ne]
    by_cases hj : j = i
    · rw [hj, emptied]
      simp
    · rw [isSome_of_map_eq (keys j hj), ← mem j]
      simp [hj]
  · intro _ sorted
    rw [Table.sorted, order]
    refine (List.Pairwise.filter _ sorted).imp_of_mem fun hj hk h => ?_
    exact Table.before_congr (keys _ (by simpa using (List.mem_filter.mp hj).2))
      (keys _ (by simpa using (List.mem_filter.mp hk).2)) h

theorem Table.keeps_place (t : Table) (i : Slot) (r : Record) : t.Keeps (t.place i r) := by
  obtain ⟨slots, mem, nodup, -⟩ := t.place_spec i r
  have slot : ∀ j : Slot, (t.place i r).slots[j] = if j = i then some r else t.slots[j] := by
    intro j
    rw [slots]
    exact put_get ..
  constructor
  · rintro ⟨hnodup, hmem⟩
    refine ⟨nodup hnodup, fun j => ?_⟩
    rw [mem, slot, hmem]
    by_cases hj : j = i <;> simp [hj]
  · rintro ⟨-, hmem⟩ sorted
    refine Table.insertOrdered_pairwise (t := { t with slots := put t.slots i (some r) }) ?_ _ (fun j hj => ?_) ?_ ?_
    · exact (congrArg Option.isSome (slot i)).trans (by simp)
    · obtain ⟨hj, hne⟩ := List.mem_filter.mp hj
      refine (congrArg Option.isSome (slot j)).trans ?_
      rw [if_neg (by simpa using hne)]
      exact (hmem j).mp hj
    · simp
    · refine (List.Pairwise.filter _ sorted).imp_of_mem fun {j k} hj hk h => ?_
      have key : ∀ j ∈ t.order.filter (· != i), ((t.place i r).slots[j]).map Record.key = (t.slots[j]).map Record.key := by
        intro j hj
        rw [slot, if_neg (by simpa using (List.mem_filter.mp hj).2)]
      exact Table.before_congr (u := t.place i r) (key j hj) (key k hk) h

/-- A list of occupied slots, sorted anew, is ascending and holds the same slots once. -/
theorem Table.foldr_insertOrdered (u : Table) (l : List Slot) (nodup : l.Nodup)
    (occupied : ∀ j ∈ l, u.slots[j].isSome = true) :
    (l.foldr u.insertOrdered []).Nodup ∧ (∀ j, j ∈ l.foldr u.insertOrdered [] ↔ j ∈ l) ∧
      (l.foldr u.insertOrdered []).Pairwise u.before := by
  induction l with
  | nil => simp
  | cons i l ih =>
    obtain ⟨hi, hl⟩ := List.nodup_cons.mp nodup
    obtain ⟨ihnodup, ihmem, ihsorted⟩ := ih hl fun j hj => occupied j (by simp [hj])
    have absent : i ∉ l.foldr u.insertOrdered [] := fun h => hi ((ihmem i).mp h)
    refine ⟨u.nodup_insertOrdered i _ absent ihnodup, fun j => ?_, ?_⟩
    · rw [List.foldr_cons, u.mem_insertOrdered, ihmem, List.mem_cons]
    · exact Table.insertOrdered_pairwise (occupied i (by simp)) _
        (fun j hj => occupied j (by simp [(ihmem j).mp hj])) absent ihsorted

theorem Table.keeps_rebase (t : Table) : t.Keeps t.rebase := by
  have occupied : ∀ i : Slot, t.rebase.slots[i].isSome = t.slots[i].isSome := by
    intro i
    simp [Table.rebase]
  have sorted_anew : t.sound → _ := fun h =>
    Table.foldr_insertOrdered { t with slots := mapAll (Option.map Record.rebase) t.slots, working := t.working - 1440 }
      t.order h.1 fun j hj => (occupied j).trans ((h.2 j).mp hj)
  constructor
  · intro h
    obtain ⟨nodup, mem, -⟩ := sorted_anew h
    exact ⟨nodup, fun i => (mem i).trans ((h.2 i).trans (by rw [occupied i]))⟩
  · exact fun h _ => (sorted_anew h).2.2

/-! ### Evaluations keep the key -/

theorem flashExpiry_key (cfg : Settings) (n : Int) (r : Record) : (flashExpiry cfg n r).key = r.key := by
  unfold flashExpiry
  split
  · split <;> rfl
  · rfl

/-- The key of a record that is not CANCELLED. -/
theorem Record.key_of_not_cancelled {r : Record} (h : ∀ c, r.state ≠ .cancelled c) : r.key = (r.effective, r.sched) := by
  unfold Record.key Record.sortMinute
  split
  · next c e => exact absurd e (h c)
  all_goals rfl

/-- A record in WAITING, CALLED or CLOSING is evaluated to one of the same minutes, not CANCELLED. -/
theorem lifecycle_live {cfg : Settings} {n : Int} {r r' : Record} (live : r.state.live = true)
    (h : (lifecycle cfg n r).record = some r') :
    r'.effective = r.effective ∧ r'.sched = r.sched ∧ ∀ c, r'.state ≠ .cancelled c := by
  have keep : some r = some r' → r'.effective = r.effective ∧ r'.sched = r.sched ∧ ∀ c, r'.state ≠ .cancelled c := by
    rintro ⟨rfl⟩
    exact ⟨rfl, rfl, fun c e => by simp [e, RecordState.live] at live⟩
  have moved : ∀ u : Record, some u = some r' → u.expected = r.expected → u.sched = r.sched →
      (∀ c, u.state ≠ .cancelled c) → r'.effective = r.effective ∧ r'.sched = r.sched ∧ ∀ c, r'.state ≠ .cancelled c := by
    rintro u ⟨rfl⟩ he hs hc
    exact ⟨by rw [Record.effective, Record.effective, he, hs], hs, hc⟩
  have cases : lifecycle cfg n r = moveToGone n r ∨ lifecycle cfg n r = moveToClosing n r ∨
      lifecycle cfg n r = moveToCalled r ∨ lifecycle cfg n r = moveToWaiting r := by
    unfold lifecycle
    split
    · next e => simp [e, RecordState.live] at live
    · next e => simp [e, RecordState.live] at live
    all_goals split_ifs <;> simp
  rcases cases with e | e | e | e <;> rw [e] at h
  · exact moved _ h rfl rfl (fun _ => nofun)
  · unfold moveToClosing at h
    split_ifs at h
    · exact keep h
    all_goals exact moved _ h rfl rfl (fun _ => nofun)
  · unfold moveToCalled at h
    split at h
    · exact moved _ h rfl rfl (fun _ => nofun)
    · split_ifs at h
      all_goals exact moved _ h rfl rfl (fun _ => nofun)
    all_goals exact keep h
  · unfold moveToWaiting at h
    split_ifs at h
    · exact keep h
    · exact moved _ h rfl rfl (fun _ => nofun)

/-- An evaluation takes no record into CANCELLED or out of it, and changes no minute of it: the key stands. -/
theorem lifecycle_key {cfg : Settings} {n : Int} {r r' : Record} (h : (lifecycle cfg n r).record = some r') :
    r'.key = r.key := by
  cases live : r.state.live with
  | true =>
    obtain ⟨effective, sched, state⟩ := lifecycle_live live h
    rw [Record.key_of_not_cancelled state, effective, sched,
      Record.key_of_not_cancelled fun c e => by simp [e, RecordState.live] at live]
  | false =>
    suffices r = r' by rw [this]
    unfold lifecycle at h
    split at h
    · split_ifs at h
      exact Option.some.inj h
    · split_ifs at h
      exact Option.some.inj h
    all_goals simp_all [RecordState.live]

theorem evaluate_key {cfg : Settings} {timed : Bool} {n : Int} {r r' : Record}
    (h : (evaluate cfg timed n r).record = some r') : r'.key = r.key := by
  unfold evaluate at h
  split at h
  · exact (lifecycle_key h).trans (flashExpiry_key cfg n r)
  · rw [← Option.some.inj h]
    exact flashExpiry_key cfg n r

/-! ### The table's shared operations -/

/-- One slot evaluated at a minute event. -/
theorem Table.keeps_evaluateSlot (cfg : Settings) (n : Int) (acc : Table × List Notification × List Slot) (i : Slot) :
    acc.1.Keeps (evaluateSlot cfg n acc i).1 := by
  unfold evaluateSlot
  split
  · exact .refl _
  · next r hr =>
    show acc.1.Keeps (match (evaluate cfg true n r).record with | some r' => acc.1.hold i r' | none => acc.1.free i)
    split
    · next h => exact acc.1.keeps_hold hr (evaluate_key h)
    · exact acc.1.keeps_free i

theorem Table.keeps_evaluateSlots (cfg : Settings) (n : Int) (l : List Slot)
    (acc : Table × List Notification × List Slot) : acc.1.Keeps (l.foldl (evaluateSlot cfg n) acc).1 := by
  induction l generalizing acc with
  | nil => exact .refl _
  | cons i l ih => exact (Table.keeps_evaluateSlot cfg n acc i).trans (ih _)

theorem Change.keeps_applied (ch : Change) (s : State) (i : Slot) : s.table.Keeps (ch.applied s i) := by
  unfold Change.applied
  split
  · exact (s.table.keeps_place i _).trans (Table.keeps_place _ i _)
  · exact (s.table.keeps_place i _).trans (Table.keeps_free _ i)

/-- A table replaced in the state. -/
theorem Table.Keeps.state {s : State} {t : Table} (h : s.table.Keeps t) : s.Keeps { s with table := t } :=
  s.keeps_table t h.sound h.sorted

theorem State.keeps_conflictCheck (s : State) : s.Keeps s.conflictCheck :=
  (s.table.keeps_checked _).state.trans (State.keeps_raiseAll _ _)

theorem Change.keeps_carryOut (ch : Change) (c : Ctrl) (i : Slot) (s : State) : s.Keeps (ch.carryOut c i s).1 :=
  (((ch.keeps_applied s i).trans (Table.keeps_checked _ _)).state.trans (State.keeps_hand _ _ _)).trans
    (State.keeps_raiseAll _ _)

end Sys2Proof.Machine
end

section
/-! What each command keeps, block by block, and the step. -/

namespace Sys2Proof.Machine

/-! ### The Update Authority Arbiter (chapter 4) -/

theorem State.keeps_setStaging (s : State) (c : Ctrl) (b : Staging) : s.Keeps (s.setStaging c b) := by
  cases c <;> exact .ofEq rfl rfl rfl rfl rfl rfl rfl

theorem State.keeps_endWait (s : State) : s.Keeps s.endWait :=
  s.keeps_arbiter _ fun ⟨_, _, silence⟩ => ⟨nofun, by simp, silence⟩

/-- A port becomes the holder where no port waits (R71, R77). -/
theorem State.keeps_grant (s : State) (c : Ctrl) (h : s.arbiter.waiting = none ∨ s.arbiter.holder = none) :
    s.Keeps (s.grant c) := by
  refine State.Keeps.noted (s.keeps_arbiter
    { s.arbiter with holder := some c, silence := .running (secondsLeft s.settings.holdSilence) }
    fun ⟨waiting, yield, _⟩ => ⟨fun w hw => ?_, yield, by simp⟩) s
  rcases h with h | h
  · exact absurd (h.symm.trans hw) nofun
  · exact absurd ((waiting w hw).symm.trans h) nofun

theorem State.keeps_vacate (s : State) (h : s.arbiter.waiting = none) : s.Keeps s.vacate :=
  State.Keeps.noted
    (s.keeps_arbiter { s.arbiter with holder := none, silence := .stopped }
      fun ⟨_, yield, _⟩ => ⟨fun _ hw => absurd (h.symm.trans hw) nofun, yield, by simp⟩) s

/-- A port waits for the other, which holds (R72). -/
theorem State.keeps_beginWait (s : State) {c h : Ctrl} (holder : s.arbiter.holder = some c.other) :
    s.Keeps (s.beginWait c h) := by
  refine State.Keeps.trans (s.keeps_arbiter
    { s.arbiter with waiting := some c, yield := .running (secondsLeft s.settings.yieldTime) }
    fun ⟨_, _, silence⟩ => ⟨fun w hw => ?_, by simp, silence⟩) (State.keeps_raise _ _ _)
  cases hw
  exact holder

@[simp] theorem Ctrl.other_other (c : Ctrl) : c.other.other = c := by
  cases c <;> rfl

theorem Ctrl.eq_other_of_ne {c d : Ctrl} (h : c ≠ d) : c = d.other := by
  revert h
  cases c <;> cases d <;> simp [Ctrl.other]

theorem keeps_claimFromFree (c : Ctrl) (s : State) (free : s.arbiter.holder = none) :
    s.Keeps (claimFromFree c s).1 := by
  unfold claimFromFree
  split
  · have decided : ∀ w : Ctrl, s.Keeps (((s.take c.other.port).grant w).beginWait w.other w) := by
      intro w
      have taken : (s.take c.other.port).arbiter = s.arbiter := by
        unfold State.take
        split <;> simp
      have held : ((s.take c.other.port).grant w).arbiter.holder = some w := by
        rw [((s.take c.other.port).grant_spec w).1]
      exact ((s.keeps_take _).trans (State.keeps_grant _ w (.inr (taken ▸ free)))).trans
        (State.keeps_beginWait _ (by rw [held, Ctrl.other_other]))
    dsimp only
    split
    · exact (decided _).trans (State.keeps_answer _ _ _)
    · exact (decided _).trans (State.keeps_answer _ _ _)
  · exact s.keeps_grant c (.inr free)

theorem keeps_requestServed (c : Ctrl) (s : State) : s.Keeps (requestServed c s).1 := by
  unfold requestServed
  split
  · exact keeps_claimFromFree c s ‹_›
  · next h holder =>
    split
    · exact .refl s
    · next hne =>
      split
      · exact .refl s
      · exact s.keeps_beginWait (by rw [holder, Ctrl.eq_other_of_ne hne])

theorem keeps_seizeServed (c : Ctrl) (s : State) : s.Keeps (seizeServed c s).1 := by
  unfold seizeServed
  split
  · exact keeps_claimFromFree c s ‹_›
  · next h holder =>
    split
    · exact .refl s
    · have ended : (s.endWait.emptyStaging h).arbiter.waiting = none := by simp [State.emptyStaging, State.endWait]
      exact ((s.keeps_endWait.trans (State.keeps_setStaging _ h _)).trans
        (State.keeps_grant _ c (.inl ended))).trans (State.keeps_raise _ _ _)

theorem keeps_seizeChecked (c : Ctrl) (payload : List Byte) (s : State) : s.Keeps (seizeChecked c payload s).1 := by
  unfold seizeChecked
  split
  · exact keeps_withoutPayload (keeps_seizeServed c) payload s
  · exact .refl s

theorem keeps_releaseServed (c : Ctrl) (s : State) : s.Keeps (releaseServed c s).1 := by
  unfold releaseServed
  split
  · split
    · next w _ =>
      have ended : (s.endWait.emptyStaging c).arbiter.waiting = none := by simp [State.emptyStaging, State.endWait]
      exact ((s.keeps_endWait.trans (State.keeps_setStaging _ c _)).trans
        (State.keeps_grant _ w (.inl ended))).trans (State.keeps_raise _ _ _)
    · next waiting =>
      exact (s.keeps_setStaging c _).trans (State.keeps_vacate _ (by simpa [State.emptyStaging] using waiting))
  · split
    · exact s.keeps_endWait
    · exact .refl s

theorem keeps_silenceExpired (h : Ctrl) (s : State) : s.Keeps (silenceExpired h s) := by
  have expired : s.Keeps ((s.emptyStaging h).raise h.port .authorityExpired) :=
    (s.keeps_setStaging h _).trans (State.keeps_raise _ _ _)
  unfold silenceExpired
  dsimp only
  split
  · exact ((expired.trans (State.keeps_endWait _)).trans (State.keeps_grant _ _ (.inl rfl))).trans
      (State.keeps_raise _ _ _)
  · exact expired.trans (State.keeps_vacate _ ‹_›)

theorem State.keeps_restartSilence (s : State) (p : Port) : s.Keeps (s.restartSilence p) := by
  unfold State.restartSilence
  split
  · next h holder =>
    exact .ite (fun _ => s.keeps_arbiter _ fun ⟨waiting, yield, _⟩ => ⟨waiting, yield, by simp [holder]⟩) fun _ => .refl s
  · exact .refl s

/-! ### The Time Base (chapter 1) -/

theorem State.keeps_setTimeState (s : State) (v : TimeState) : s.Keeps (s.setTimeState v) :=
  (s.keeps_withTime _).noted s

theorem State.keeps_setRef (s : State) (v : RefState) : s.Keeps (s.setRef v) :=
  (s.keeps_withTime _).noted s

theorem keeps_completeSecond (s : State) : s.Keeps (completeSecond s) := by
  unfold completeSecond
  dsimp only
  split
  · exact .refl s
  · split
    · exact (s.keeps_withTime _).trans (State.keeps_post _ _)
    · exact .ite (fun _ => (s.keeps_withTime _).trans (State.keeps_post _ _)) fun _ => s.keeps_withTime _
  · exact .ite (fun _ => (s.keeps_withTime _).trans (State.keeps_setTimeState _ _)) fun _ => s.keeps_withTime _

theorem Timer.tick_stopped (x : Timer) : x.tick = .stopped ↔ x = .stopped := by
  cases x <;> simp [Timer.tick]

theorem State.keeps_runTimers (s : State) : s.Keeps s.runTimers := by
  refine State.Keeps.trans
    (s.keeps_arbiter { s.arbiter with yield := s.arbiter.yield.tick, silence := s.arbiter.silence.tick }
      fun ⟨waiting, yield, silence⟩ =>
        ⟨waiting, (Timer.tick_stopped _).trans yield, (Timer.tick_stopped _).trans silence⟩)
    (.ofEq rfl rfl rfl rfl rfl rfl rfl)

theorem keeps_forwardStep (second : Nat) (kind : StepKind) (last : List Delivery) (s : State) :
    s.Keeps (forwardStep second kind last s) := by
  have set := s.keeps_withTime (s.time.setSecond second)
  unfold forwardStep
  dsimp only
  split
  · exact (set.trans (State.keeps_setTimeState _ _)).trans (State.keeps_post _ _)
  · exact .ite (fun _ => (set.trans (State.keeps_setTimeState _ _)).trans (State.keeps_post _ _))
      fun _ => set.trans (State.keeps_post _ _)

theorem keeps_discipline (s : State) : s.Keeps (discipline s) := by
  unfold discipline
  dsimp only
  split
  · exact s.keeps_withTime _
  · exact .ite (fun _ => (s.keeps_withTime _).trans (State.keeps_post _ _)) fun _ => keeps_forwardStep _ _ _ s

theorem keeps_lockReference (s : State) : s.Keeps (lockReference s) :=
  .ite (fun _ => .refl s) fun _ => (s.keeps_setRef _).trans (State.keeps_raiseRouted _ _)

theorem keeps_minutePulse (s : State) : s.Keeps (if s.time.acceptsPulse then
    match s.pulseAccepted.time.state with
    | .unset => s.pulseAccepted
    | .running | .holding _ => discipline s.pulseAccepted
    else { s with time := { s.time with spurious := increment s.time.spurious } }) := by
  have accepted : s.Keeps s.pulseAccepted := (s.keeps_withTime _).trans (keeps_lockReference _)
  refine .ite (fun _ => ?_) fun _ => s.keeps_withTime _
  split
  · exact accepted
  all_goals exact accepted.trans (keeps_discipline _)

theorem keeps_setTimeServed (c : Ctrl) (tod : Nat) (s : State) : s.Keeps (setTimeServed c tod s).1 := by
  have backward : ∀ t d, s.Keeps (backwardCorrection c t d s).1 := by
    intro t d
    unfold backwardCorrection
    dsimp only
    split
    · exact .refl s
    · split
      · exact (s.keeps_withTime _).trans (State.keeps_post _ _)
      · split
        · exact .refl s
        · exact ((s.keeps_withTime _).trans (State.keeps_setTimeState _ _)).trans (State.keeps_post _ _)
  unfold setTimeServed
  dsimp only
  split
  · exact ((s.keeps_withTime _).trans (State.keeps_setTimeState _ _)).trans (State.keeps_post _ _)
  all_goals
    split
    · exact keeps_forwardStep _ _ _ s
    · exact backward _ _

/-! ### Clock lines (chapter 9) -/

theorem State.keeps_setLine (s : State) (l : Line) (r : LineRecord) : s.Keeps (s.setLine l r) :=
  State.Keeps.noted (s := s) (t := { s with clock := { s.clock with lines := put s.clock.lines l r } })
    (.ofEq rfl rfl rfl rfl rfl rfl rfl) s

theorem State.keeps_retain (s : State) (l : Line) (e : RetentionEntry) : s.Keeps (s.retain l e) :=
  .ofEq rfl rfl rfl rfl rfl rfl rfl

theorem State.keeps_evaluateLine (s : State) (l : Line) : s.Keeps (s.evaluateLine l) := by
  have settle : ∀ m, s.Keeps (s.settleLine l m) := fun m =>
    .ite (fun _ => (s.keeps_setLine l _).trans ((State.keeps_retain _ l _).trans (State.keeps_setLine _ l _)))
      fun _ => s.keeps_setLine l _
  unfold State.evaluateLine
  dsimp only
  split
  · split
    · split
      · exact .refl s
      · exact settle _
    · exact s.keeps_setLine l _
  · exact .refl s

theorem State.keeps_becomeOff (s : State) (l : Line) : s.Keeps (s.becomeOff l) := s.keeps_setLine l _

theorem State.keeps_turnOff (s : State) (l : Line) : s.Keeps (s.turnOff l) :=
  .ite (fun _ => .refl s) fun _ => .ite (fun _ => s.keeps_setLine l _) fun _ => s.keeps_becomeOff l

theorem keeps_dialServed (q : Line × Nat × Polarity) (s : State) : s.Keeps (dialServed q s).1 := by
  unfold dialServed
  dsimp only
  split
  · exact .refl s
  · split
    · exact .refl s
    · have set : ∀ e r, s.Keeps ((s.retain q.1 e).setLine q.1 r) := fun e r =>
        (s.keeps_retain q.1 e).trans (State.keeps_setLine _ q.1 r)
      have evaluated := fun e r => (set e r).trans (State.keeps_evaluateLine _ q.1)
      split
      · exact evaluated _ _
      · exact evaluated _ _
      · exact evaluated _ _
      · exact evaluated _ _
      · exact evaluated _ _
      · exact set _ _
      · exact set _ _

theorem keeps_lineOnServed (l : Line) (s : State) : s.Keeps (lineOnServed l s).1 := by
  unfold lineOnServed
  dsimp only
  split
  · split
    · exact (s.keeps_setLine l _).trans (State.keeps_evaluateLine _ l)
    · exact s.keeps_setLine l _
  · exact .refl s

theorem keeps_clearFaultServed (l : Line) (s : State) : s.Keeps (clearFaultServed l s).1 := by
  unfold clearFaultServed
  split
  · exact (s.keeps_setLine l _).trans (State.keeps_evaluateLine _ l)
  all_goals exact .refl s

/-! ### The wall and its links (chapters 6 and 7) -/

theorem State.keeps_setView (s : State) (k : Chain) (v : ChainView) : s.Keeps (s.setView k v) :=
  .ofEq rfl rfl rfl rfl rfl rfl rfl

theorem State.keeps_setLink (s : State) (k : Chain) (l : Link) : s.Keeps (s.setLink k l) :=
  .ofEq rfl rfl rfl rfl rfl rfl rfl

theorem State.keeps_withComposer (s : State) (x : Composer) : s.Keeps { s with composer := x } :=
  .ofEq rfl rfl rfl rfl rfl rfl rfl

theorem State.keeps_passRow (s : State) (c : Chain) (k : Nat) : s.Keeps (s.passRow c k) :=
  .ite (fun _ => (s.keeps_withComposer _).trans (State.keeps_setView _ c _)) fun _ => s.keeps_withComposer _

theorem State.keeps_startCycle (s : State) (c : Chain) : s.Keeps (s.startCycle c) :=
  (s.keeps_setView c _).trans (State.keeps_setLink _ c _)

theorem State.keeps_readyFor (s : State) (c : Chain) (k : Nat) : s.Keeps (s.readyFor c k) := by
  unfold State.readyFor
  dsimp only
  split
  · exact s.keeps_setLink c _
  · exact .ite (fun _ => (s.keeps_setLink c _).trans (State.keeps_passRow _ c k))
      fun _ => (s.keeps_setLink c _).trans (State.keeps_passRow _ c k)

theorem State.keeps_setFault (s : State) (c : Chain) (b : Bool) : s.Keeps (s.setFault c b) :=
  (s.keeps_setLink c _).noted s

theorem State.keeps_updateModule (s : State) (c : Chain) (k : Nat) (a : LastAnswer) : s.Keeps (s.updateModule c k a) :=
  .ite
    (fun _ => .ite
      (fun _ => ((s.keeps_setLink c _).trans (State.keeps_setFault _ c true)).trans (State.keeps_raiseRouted _ _))
      fun _ => s.keeps_setLink c _)
    fun _ => s.keeps_setLink c _

theorem State.keeps_endCycle (s : State) (c : Chain) : s.Keeps (s.endCycle c) := by
  have cleared : s.Keeps (if s.links[c].clean then s.setFault c false else s) :=
    .ite (fun _ => s.keeps_setFault c false) fun _ => .refl s
  exact ((cleared.trans (State.keeps_withComposer _ _)).trans (State.keeps_setView _ c _)).trans
    (State.keeps_setLink _ c _)

theorem State.keeps_closeWindow (s : State) (c : Chain) (k : Nat) (a : LastAnswer) : s.Keeps (s.closeWindow c k a) :=
  (s.keeps_updateModule c k a).trans
    (.ite (fun _ => State.keeps_readyFor _ c (k + 1)) fun _ => State.keeps_endCycle _ c)

theorem State.keeps_leaveHalted (s : State) (c : Chain) : s.Keeps (s.leaveHalted c) :=
  .ite (fun _ => s.keeps_setLink c _) fun _ => .refl s

/-! ### Cues (chapter 8) -/

theorem State.keeps_withCueInbox (s : State) (rest : List CueMessage) : s.Keeps (s.withCueInbox rest) :=
  .ofEq rfl rfl rfl rfl rfl rfl rfl

/-- A queue replaced by one within R136's bound. -/
theorem Cues.setQueue_bounded {c : Cues} (h : ∀ k, (c.queue k).length ≤ 16) {k : CueClass} {q : List Cue}
    (hq : q.length ≤ 16) (j : CueClass) : ((c.setQueue k q).queue j).length ≤ 16 := by
  rw [c.queue_setQueue j k q]
  split
  · exact hq
  · exact h j

theorem State.keeps_setQueue (s : State) (k : CueClass) (q : List Cue)
    (h : q.length ≤ 16 ∨ q.length ≤ (s.cues.queue k).length) : s.Keeps { s with cues := s.cues.setQueue k q } :=
  s.keeps_cues _ fun bounded j => Cues.setQueue_bounded bounded (h.elim id fun h => h.trans (bounded k)) j

/-- A cue appended to a queue that holds fewer than 16 (R139, R150). -/
theorem State.keeps_appendCue (s : State) (q : Cue) (h : (s.cues.queue q.kind.cls).length < 16) :
    s.Keeps (s.appendCue q) := by
  have appended := s.keeps_setQueue q.kind.cls (s.cues.queue q.kind.cls ++ [q])
    (.inl (by rw [List.length_append, List.length_singleton]; exact h))
  unfold State.appendCue
  dsimp only
  split
  · have raised := appended.trans (State.keeps_raise _ .cp .safetyCueReady)
    exact .ite (fun _ => raised.trans (State.keeps_raise _ _ _)) fun _ => raised
  · exact .ite (fun _ => appended.trans (State.keeps_raise _ _ _)) fun _ => appended

theorem State.keeps_dropCue (s : State) (k : CueClass) : s.Keeps (s.dropCue k) :=
  (s.keeps_cues _ fun bounded j => ((s.dropCue_spec k).2.1 j).symm ▸ bounded j).trans (State.keeps_raiseRouted _ _)

theorem State.keeps_offerNext (s : State) : s.Keeps s.offerNext :=
  .ite (fun _ => s.keeps_raise _ _) fun _ => .refl s

theorem State.keeps_supersedeIf (s : State) (p : Cue → Bool) : s.Keeps (s.supersedeIf p) := by
  unfold State.supersedeIf
  split
  · exact .refl s
  · exact .ite
      (fun _ => (State.keeps_raise _ _ _).comp (.ofEq rfl rfl rfl rfl rfl rfl rfl))
      fun _ => .refl s

theorem keeps_withdrawCues (p : Cue → Bool) (s : State) : s.Keeps (withdrawCues p s) := by
  refine (s.keeps_cues _ fun bounded k => ?_).trans (State.keeps_supersedeIf _ p)
  have kept := bounded k
  cases k
  · exact kept
  all_goals exact (List.length_filter_le _ _).trans kept

theorem keeps_refreshCues (r : Refresh) (s : State) : s.Keeps (refreshCues r s) := by
  refine (s.keeps_cues _ fun bounded k => ?_).trans (State.keeps_supersedeIf _ _)
  have kept := bounded k
  cases k <;> exact (List.length_map _).trans_le kept

theorem keeps_issueCue (i : Issue) (s : State) : s.Keeps (issueCue i s) := by
  unfold issueCue
  dsimp only
  split
  · exact s.keeps_setQueue _ _ (.inr (List.length_map _).le)
  · split
    · next h =>
      exact (State.keeps_appendCue _ _ h).comp (.ofEq rfl rfl rfl rfl rfl rfl rfl)
    · exact s.keeps_dropCue _

theorem keeps_announceServed (q : TextRef × Nat) (s : State) : s.Keeps (announceServed q s).1 := by
  unfold announceServed
  dsimp only
  split
  · next h =>
    exact State.Keeps.comp (State.keeps_appendCue _ _ (by exact h)) (.ofEq rfl rfl rfl rfl rfl rfl rfl)
  · exact .refl s

theorem Cues.queue_spend (c : Cues) (k j : CueClass) : (c.spend k).queue j = c.queue j := by
  cases k <;> rfl

theorem Cues.queue_reloaded (c : Cues) (cfg : Settings) (j : CueClass) : (c.reloaded cfg).queue j = c.queue j := by
  unfold Cues.reloaded
  split <;> rfl

/-- A pick changes no queue (R146, R147). -/
theorem Cues.queue_pick (c : Cues) (cfg : Settings) (j : CueClass) : (c.pick cfg).2.queue j = c.queue j := by
  unfold Cues.pick
  split
  · rfl
  · split
    · rfl
    · dsimp only
      split
      · rw [Cues.queue_spend, Cues.queue_reloaded]
      · exact c.queue_reloaded cfg j

theorem keeps_fetchServed (s : State) : s.Keeps (fetchServed s).1 := by
  unfold fetchServed
  split
  · exact .refl s
  · split
    · exact .refl s
    · next k c picked =>
      have queue : ∀ j, c.queue j = s.cues.queue j := fun j => by rw [← s.cues.queue_pick s.settings j, picked]
      split
      · exact .refl s
      · refine s.keeps_cues _ fun bounded j => ?_
        have tail : (c.queue k).tail.length ≤ 16 :=
          (List.length_tail.trans_le (Nat.sub_le _ _)).trans (queue k ▸ bounded k)
        exact Cues.setQueue_bounded (fun j => (queue j).symm ▸ bounded j) tail j

theorem keeps_finishCue (q : Cue) (played : Bool) (s : State) : s.Keeps (finishCue q played s) := by
  have ended : s.Keeps s.endPlaying := .ofEq rfl rfl rfl rfl rfl rfl rfl
  unfold finishCue
  dsimp only
  split
  · next again =>
    split
    · next h => exact ended.trans (State.keeps_appendCue _ _ (by rw [again.1]; exact h))
    · exact ended.trans ((State.keeps_dropCue _ _).trans (State.keeps_offerNext _))
  · exact ended.trans (State.keeps_offerNext _)

theorem keeps_cueDoneServed (d : Nat × Bool) (s : State) : s.Keeps (cueDoneServed d s).1 := by
  unfold cueDoneServed
  split
  · exact .refl s
  · split
    · exact keeps_finishCue _ _ s
    · exact .refl s

theorem Cues.rebase_bounded {c : Cues} (h : ∀ k, (c.queue k).length ≤ 16) (k : CueClass) :
    (c.rebase.queue k).length ≤ 16 := by
  have kept := h k
  cases k <;> exact (List.length_map _).trans_le kept

/-! ### Configuration, start-up and resets (chapter 11) -/

theorem State.keeps_lineWritten (s : State) (l : Line) : s.Keeps (s.lineWritten l) :=
  .ite (fun _ => s.keeps_evaluateLine l) fun _ => s.keeps_turnOff l

theorem Item.keeps_written (i : Item) (s : State) : s.Keeps (i.written s) := by
  cases i with
  | conflictWindow => exact s.keeps_conflictCheck
  | scheduling | platformWeight | delayWeight | routineWeight => exact .ofEq rfl rfl rfl rfl rfl rfl rfl
  | plan k => exact s.keeps_leaveHalted k
  | line k => exact s.keeps_lineWritten k
  | _ => exact .refl s

theorem keeps_writeItemServed (q : Byte × List Byte) (s : State) : s.Keeps (writeItemServed q s).1 := by
  unfold writeItemServed
  split
  · exact .refl s
  · split
    · exact .refl s
    · split
      · exact .refl s
      · split
        · exact .refl s
        · exact (Item.keeps_written _ _).comp (.ofEq rfl rfl rfl rfl rfl rfl rfl)

theorem State.keeps_checkRetention (s : State) : s.Keeps s.checkRetention :=
  .ite (fun _ => .refl s) fun _ => .ofEq rfl rfl rfl rfl rfl rfl rfl

theorem TextStore.afterReset_cells (t : TextStore) : t.afterReset.cells = t.cells := by
  unfold TextStore.afterReset
  dsimp only
  split <;> rfl

/-- The machine after reset meets the invariants, whatever its nonvolatile text (R53, R84, R156, R185). -/
theorem State.keeps_afterReset (s : State) : s.Keeps s.afterReset where
  pending := rfl
  text h := by rw [State.textCanonical, State.afterReset, TextStore.afterReset_cells]; exact h
  attention _ p := by cases p <;> rfl
  ascending _ p := by cases p <;> exact List.Pairwise.nil
  queues _ k := by cases k <;> exact Nat.zero_le 16
  wait _ := ⟨nofun, Iff.intro (fun _ => rfl) fun _ => rfl, Iff.intro (fun _ => rfl) fun _ => rfl⟩
  list _ := ⟨List.nodup_nil, fun i => by simp [State.afterReset, State.reset, Table.reset]⟩
  sorted _ _ := List.Pairwise.nil

theorem State.keeps_loadSettings (s : State) : s.Keeps s.loadSettings :=
  .ite (fun _ => .ofEq rfl rfl rfl rfl rfl rfl rfl)
    fun _ => (State.keeps_raiseRouted _ _).comp (.ofEq rfl rfl rfl rfl rfl rfl rfl)

theorem State.keeps_startStep (s : State) (straps : Straps) (g : StartStage) : s.Keeps (s.startStep straps g) := by
  cases g with
  | configuration => exact s.keeps_loadSettings.trans (.ofEq rfl rfl rfl rfl rfl rfl rfl)
  | cycles => exact (State.Keeps.foldl State.keeps_startCycle allChains s).trans (.ofEq rfl rfl rfl rfl rfl rfl rfl)
  | _ => exact .ofEq rfl rfl rfl rfl rfl rfl rfl

theorem State.keeps_startUp (s : State) (run : StartRun) : s.Keeps (s.startUp run) :=
  .foldl (fun s g => .ite (fun _ => s.keeps_startStep _ g) fun _ => .refl s) _ s

/-! ### Ports (chapter 10) -/

theorem State.keeps_discardFrame (s : State) (p : Port) : s.Keeps (s.discardFrame p) :=
  s.keeps_setPort_events p _ rfl rfl

theorem State.keeps_takeFrame (s : State) (p : Port) (code : Byte) (payload : List Byte) :
    s.Keeps (s.takeFrame p code payload) := by
  unfold State.takeFrame
  split
  · exact s.keeps_setService p _
  · exact s.keeps_setPort_events p _ rfl rfl

theorem State.keeps_receiveByte (p : Port) (s : State) (b : Byte) : s.Keeps (s.receiveByte p b) := by
  unfold State.receiveByte
  split
  · exact s.keeps_setReceiver p _
  · exact s.keeps_discardFrame p
  · have hunting := s.keeps_setReceiver p .hunt
    exact .ite (fun _ => hunting.trans ((State.keeps_restartSilence _ p).trans (State.keeps_takeFrame _ p _ _)))
      fun _ => hunting

theorem keeps_readEventServed (p : Port) (s : State) : s.Keeps (readEventServed p s).1 := by
  unfold readEventServed
  split
  · exact .refl s
  · next e rest h => exact s.keeps_withEvents p _ (h ▸ List.sublist_cons_self e rest)

theorem keeps_postWatchServed (c : Ctrl) (w : Watch) (s : State) : s.Keeps (postWatchServed c w s).1 := by
  unfold postWatchServed
  dsimp only
  split
  · exact s.keeps_setPort_events _ _ rfl rfl
  · split
    · exact s.keeps_setPort_events _ _ rfl rfl
    · exact s.keeps_fireWatch c _

/-! ### The table's commands (chapter 2) -/

theorem keeps_tableMinute (n : Nat) (rest : List MinuteItem) (s : State) : s.Keeps (tableMinute n rest s) := by
  have evaluated : s.table.Keeps ((s.table.order.foldl (evaluateSlot s.settings n)
      ({ s.table with working := n, timed := true, inbox := rest }, [], [])).1) :=
    Table.Keeps.trans (t := s.table) (u := { s.table with working := n, timed := true, inbox := rest })
      (.ofKeys rfl fun _ => rfl) (Table.keeps_evaluateSlots s.settings n s.table.order
      ({ s.table with working := n, timed := true, inbox := rest }, [], []))
  have checked := fun ns => (evaluated.state.trans (State.keeps_hand _ none ns)).trans (State.keeps_conflictCheck _)
  unfold tableMinute
  dsimp only
  split
  · exact checked _
  · exact (checked _).trans (State.keeps_raiseRouted _ _)

theorem keeps_insertServed (c : Ctrl) (q : InsertRequest) (s : State) : s.Keeps (insertServed c q s).1 := by
  unfold insertServed
  split
  · exact .refl s
  · split
    · exact .refl s
    · split
      · exact .refl s
      · exact Change.keeps_carryOut _ c _ s

theorem keeps_amendServed (c : Ctrl) (q : List Byte × Option Int) (s : State) : s.Keeps (amendServed c q s).1 := by
  refine keeps_withRecord fun i r _ => ?_
  split
  · exact .refl s
  · dsimp only
    split
    · exact Change.keeps_carryOut _ c i s
    · exact Change.keeps_carryOut _ c i s

theorem keeps_assignServed (c : Ctrl) (q : List Byte × Option Nat) (s : State) : s.Keeps (assignServed c q s).1 := by
  refine keeps_withRecord fun i r _ => ?_
  split
  · exact .refl s
  · split
    · exact .refl s
    · exact Change.keeps_carryOut _ c i s

/-- A field of a record set that is no part of its key (R42 to R44). -/
theorem keeps_editOnly (c : Ctrl) {i : Slot} {r r' : Record} (ns : List Notification) {s : State}
    (h : s.table.slots[i] = some r) (key : r'.key = r.key) : s.Keeps (editOnly c i r' ns s).1 :=
  (s.table.keeps_hold h key).state.trans (State.keeps_hand _ _ _)

theorem keeps_cancelServed (c : Ctrl) (code : List Byte) (s : State) : s.Keeps (cancelServed c code s).1 := by
  refine keeps_withRecord fun i r _ => ?_
  split
  · exact .refl s
  · exact Change.keeps_carryOut _ c i s

theorem keeps_reinstateServed (c : Ctrl) (code : List Byte) (s : State) : s.Keeps (reinstateServed c code s).1 := by
  refine keeps_withRecord fun i r _ => ?_
  split
  · exact Change.keeps_carryOut _ c i s
  all_goals exact .refl s

theorem keeps_departedServed (c : Ctrl) (code : List Byte) (s : State) : s.Keeps (departedServed c code s).1 := by
  refine keeps_withRecord fun i r _ => ?_
  split
  · exact .refl s
  · exact Change.keeps_carryOut _ c i s

theorem keeps_clearBoardServed (c : Ctrl) (s : State) : s.Keeps (clearBoardServed c s).1 := by
  have cleared : s.table.Keeps { s.table with slots := Vector.replicate 96 none, order := [], pairs := [] } :=
    ⟨fun _ => ⟨List.nodup_nil, fun i => by simp⟩, fun _ _ => List.Pairwise.nil⟩
  exact (cleared.state.trans (State.keeps_hand _ _ _)).trans (State.keeps_raiseRouted _ _)

theorem keeps_readRecordServed (q : RecordName) (s : State) : s.Keeps (readRecordServed q s).1 := by
  unfold readRecordServed
  split
  · exact keeps_withRecord fun _ _ _ => .refl s
  · split
    · exact .refl s
    · exact .refl s

/-! ### The text store (chapter 5) -/

theorem keeps_commitRowServed (c : Ctrl) (s : State) : s.Keeps (commitRowServed c s).1 := by
  unfold commitRowServed
  dsimp only
  split
  · exact .refl s
  · split
    · exact .refl s
    · split
      · exact .refl s
      · exact (State.keeps_setStaging _ c _).comp (.ofEq rfl rfl rfl rfl rfl rfl rfl)

theorem keeps_commitConfigServed (c : Ctrl) (s : State) : s.Keeps (commitConfigServed c s).1 := by
  unfold commitConfigServed
  split
  · exact .refl s
  · exact .ofEq rfl rfl rfl rfl rfl rfl rfl

end Sys2Proof.Machine
end

section
/-! Every command and the step: what they keep, when they do nothing, and that they answer. -/

namespace Sys2Proof.Machine

/-- A disturbance of the line discards a frame in progress, or does nothing (R173, R174). -/
theorem keepsResult_disturbed (p : Port) (s : State) : KeepsResult s (execFrameGapExpiry p s) := by
  unfold execFrameGapExpiry
  refine keepsResult_whenOperating ?_
  split
  · exact s.keeps_discardFrame p
  · exact .refl s

/-- What every command keeps (5.1, R177, R136, R71, R23; log 1). -/
theorem exec_keeps (i : Instr) (s : State) : KeepsResult s (exec i s) := by
  cases i with
  | hardwareReset cause =>
    exact keepsResult_next
      ((State.keeps_afterReset _).comp (.ofEq rfl rfl rfl rfl rfl rfl rfl))
  | resetEnd run =>
    exact keepsResult_next (.ite
      (fun _ => .ite (fun _ => (State.keeps_startUp _ run).comp (.ofEq rfl rfl rfl rfl rfl rfl rfl)) fun _ => .refl s)
      fun _ => s.keeps_startUp run)
  | secondCompletion => exact keepsResult_whenReleased (.ite (fun _ => keeps_completeSecond s) fun _ => .refl s)
  | minutePulse =>
    show KeepsResult s (execMinutePulse s)
    unfold execMinutePulse
    refine keepsResult_whenReleased ?_
    exact keeps_minutePulse s
  | pulseIntervalExpiry =>
    exact keepsResult_whenReleased
      (.ite (fun _ => (s.keeps_setRef _).trans (State.keeps_raiseRouted _ _)) fun _ => .refl s)
  | setTime c => exact keepsResult_serve (keeps_authorised (keeps_parsed (keeps_setTimeServed c))) s
  | tableMinuteEvent =>
    show KeepsResult s (execTableMinuteEvent s)
    unfold execTableMinuteEvent
    refine keepsResult_whenOperating ?_
    split
    · exact keeps_tableMinute _ _ s
    · exact .refl s
  | tableRebase =>
    show KeepsResult s (execTableRebase s)
    unfold execTableRebase
    refine keepsResult_whenOperating ?_
    split
    · exact State.Keeps.trans s.table.keeps_rebase.state (.ofEq rfl rfl rfl rfl rfl rfl rfl)
    · exact .refl s
  | insertDeparture c => exact keepsResult_serve (keeps_authorised (keeps_parsed (keeps_insertServed c))) s
  | amendExpected c => exact keepsResult_serve (keeps_authorised (keeps_parsed (keeps_amendServed c))) s
  | assignPlatform c => exact keepsResult_serve (keeps_authorised (keeps_parsed (keeps_assignServed c))) s
  | setRemark c =>
    exact keepsResult_serve (keeps_authorised (keeps_parsed (f := remarkServed c) fun _ _ =>
      keeps_withRecord fun _ _ h => keeps_editOnly c _ h rfl)) s
  | setSector c =>
    exact keepsResult_serve (keeps_authorised (keeps_parsed (f := sectorServed c) fun _ _ =>
      keeps_withRecord fun _ _ h => keeps_editOnly c _ h rfl)) s
  | setAnnounceMask c =>
    exact keepsResult_serve (keeps_authorised (keeps_parsed (f := maskServed c) fun _ _ =>
      keeps_withRecord fun _ _ h => keeps_editOnly c _ h rfl)) s
  | cancelDeparture c => exact keepsResult_serve (keeps_authorised (keeps_parsed (keeps_cancelServed c))) s
  | reinstate c => exact keepsResult_serve (keeps_authorised (keeps_parsed (keeps_reinstateServed c))) s
  | markDeparted c => exact keepsResult_serve (keeps_authorised (keeps_parsed (keeps_departedServed c))) s
  | removeDeparture c =>
    exact keepsResult_serve (keeps_authorised (keeps_parsed fun _ u =>
      keeps_withRecord fun i _ _ => (u.table.keeps_free i).state.trans (State.keeps_hand _ _ _))) s
  | clearBoard c => exact keepsResult_serve (keeps_authorised (keeps_withoutPayload (keeps_clearBoardServed c))) s
  | readRecord c => exact keepsResult_serve (keeps_parsed keeps_readRecordServed) s
  | readList c => exact keepsResult_serve (keeps_parsed fun _ => .refl) s
  | requestAuthority c => exact keepsResult_serve (keeps_withoutPayload (keeps_requestServed c)) s
  | seizeAuthority c => exact keepsResult_serve (keeps_seizeChecked c) s
  | releaseAuthority c => exact keepsResult_serve (keeps_withoutPayload (keeps_releaseServed c)) s
  | yieldTimerExpiry =>
    show KeepsResult s (execYieldTimerExpiry s)
    unfold execYieldTimerExpiry
    refine keepsResult_whenOperating ?_
    split
    · exact s.keeps_endWait.trans (State.keeps_raise _ _ _)
    · exact .refl s
  | holderSilenceExpiry =>
    show KeepsResult s (execHolderSilenceExpiry s)
    unfold execHolderSilenceExpiry
    refine keepsResult_whenOperating ?_
    split
    · exact keeps_silenceExpired _ s
    · exact .refl s
  | setTextAddress c => exact keepsResult_serve (keeps_authorised (keeps_parsed fun _ u => u.keeps_setStaging c _)) s
  | loadText c => exact keepsResult_serve (keeps_authorised (keeps_parsed fun _ u => u.keeps_setStaging c _)) s
  | commitRow c => exact keepsResult_serve (keeps_authorised (keeps_withoutPayload (keeps_commitRowServed c))) s
  | discardStaging c =>
    exact keepsResult_serve
      (keeps_authorised (keeps_withoutPayload fun u => u.keeps_setStaging c _)) s
  | rowCommitCompletion success =>
    show KeepsResult s (execRowCommitCompletion success s)
    unfold execRowCommitCompletion
    refine keepsResult_whenOperating ?_
    split
    · exact .ite
        (fun _ => (s.keeps_store _ fun h => Memory.wf_writeCells _ h _).trans (State.keeps_raise _ _ _))
        fun _ => (State.keeps_raise _ _ _).comp (s.keeps_store _ id)
    · exact .refl s
  | composerMinuteEvent =>
    show KeepsResult s (execComposerMinuteEvent s)
    unfold execComposerMinuteEvent
    refine keepsResult_whenOperating ?_
    split
    · exact s.keeps_withComposer _
    · exact .refl s
  | noticeRebase =>
    show KeepsResult s (execNoticeRebase s)
    unfold execNoticeRebase
    refine keepsResult_whenOperating ?_
    split
    · exact .ofEq rfl rfl rfl rfl rfl rfl rfl
    · exact .refl s
  | cycleStart c => exact keepsResult_whenOperating (.ite (fun _ => s.keeps_startCycle c) fun _ => .refl s)
  | pageTimerExpiry c => exact keepsResult_whenOperating (.ite (fun _ => s.keeps_setView c _) fun _ => .refl s)
  | partTimerExpiry c => exact keepsResult_whenOperating (.ite (fun _ => s.keeps_setView c _) fun _ => .refl s)
  | compositionStart =>
    show KeepsResult s (execCompositionStart s)
    unfold execCompositionStart
    refine keepsResult_whenOperating ?_
    split
    · exact ((s.keeps_setView _ _).trans (State.keeps_setLink _ _ _)).trans (State.keeps_withComposer _ _)
    · exact .refl s
  | compositionCompletion =>
    show KeepsResult s (execCompositionCompletion s)
    unfold execCompositionCompletion
    refine keepsResult_whenOperating ?_
    split
    · exact .refl s
    · exact (s.keeps_setLink _ _).trans (State.keeps_withComposer _ _)
  | setNotice c => exact keepsResult_serve (keeps_authorised (keeps_parsed fun _ u => u.keeps_withComposer _)) s
  | clearNotice c => exact keepsResult_serve (keeps_authorised (keeps_parsed fun _ u => u.keeps_withComposer _)) s
  | leadEnd c => exact keepsResult_whenOperating (.ite (fun _ => s.keeps_readyFor c 1) fun _ => .refl s)
  | chainFrameSent c =>
    show KeepsResult s (execChainFrameSent c s)
    unfold execChainFrameSent
    refine keepsResult_whenOperating ?_
    split
    · exact s.keeps_setLink c _
    all_goals exact .refl s
  | moduleAnswer c row status good =>
    show KeepsResult s (execModuleAnswer c row status good s)
    unfold execModuleAnswer
    refine keepsResult_whenOperating ?_
    split
    · exact .ite (fun _ => s.keeps_closeWindow c _ _) fun _ => .refl s
    all_goals exact .refl s
  | answerWindowExpiry c =>
    show KeepsResult s (execAnswerWindowExpiry c s)
    unfold execAnswerWindowExpiry
    refine keepsResult_whenOperating ?_
    split
    · exact s.keeps_closeWindow c _ _
    all_goals exact .refl s
  | refreshTimerExpiry c => exact keepsResult_whenOperating (.ite (fun _ => s.keeps_setLink c _) fun _ => .refl s)
  | cueMinuteEvent =>
    show KeepsResult s (execCueMinuteEvent s)
    unfold execCueMinuteEvent
    refine keepsResult_whenOperating ?_
    split
    · exact .ofEq rfl rfl rfl rfl rfl rfl rfl
    · exact .refl s
  | cueRebase =>
    show KeepsResult s (execCueRebase s)
    unfold execCueRebase
    refine keepsResult_whenOperating ?_
    split
    · have rebased := (s.keeps_cues s.cues.rebase Cues.rebase_bounded)
      exact (keeps_deliver _ _).comp ((State.keeps_raiseRouted _ _).comp
        (rebased.trans (.ofEq rfl rfl rfl rfl rfl rfl rfl)))
    · exact .refl s
  | cueIssue =>
    show KeepsResult s (execCueIssue s)
    unfold execCueIssue
    refine keepsResult_whenOperating ?_
    split
    · exact (s.keeps_withCueInbox _).trans (keeps_issueCue _ _)
    · exact .refl s
  | cueRefresh =>
    show KeepsResult s (execCueRefresh s)
    unfold execCueRefresh
    refine keepsResult_whenOperating ?_
    split
    · exact (s.keeps_withCueInbox _).trans (keeps_refreshCues _ _)
    · exact .refl s
  | cueWithdraw =>
    show KeepsResult s (execCueWithdraw s)
    unfold execCueWithdraw
    refine keepsResult_whenOperating ?_
    split
    · exact (s.keeps_withCueInbox _).trans (keeps_withdrawCues _ _)
    · exact .refl s
  | recordEnded =>
    show KeepsResult s (execRecordEnded s)
    unfold execRecordEnded
    refine keepsResult_whenOperating ?_
    split
    · exact (s.keeps_withCueInbox _).trans (State.keeps_supersedeIf _ _)
    · exact .refl s
  | slotFreed =>
    show KeepsResult s (execSlotFreed s)
    unfold execSlotFreed
    refine keepsResult_whenOperating ?_
    split
    · exact (s.keeps_withCueInbox _).trans (keeps_withdrawCues _ _)
    · exact .refl s
  | boardCleared =>
    show KeepsResult s (execBoardCleared s)
    unfold execBoardCleared
    refine keepsResult_whenOperating ?_
    split
    · exact (s.keeps_withCueInbox _).trans (keeps_withdrawCues _ _)
    · exact .refl s
  | announce c => exact keepsResult_serve (keeps_authorised (keeps_parsed keeps_announceServed)) s
  | fetchCue => exact keepsResult_serve (keeps_withoutPayload keeps_fetchServed) s
  | cueDone => exact keepsResult_serve (keeps_parsed keeps_cueDoneServed) s
  | playTimerExpiry =>
    show KeepsResult s (execPlayTimerExpiry s)
    unfold execPlayTimerExpiry
    refine keepsResult_whenOperating ?_
    split
    · exact .refl s
    · exact .ite (fun _ => (keeps_finishCue _ _ _).comp (.ofEq rfl rfl rfl rfl rfl rfl rfl)) fun _ => .refl s
  | clockMinuteEvent =>
    show KeepsResult s (execClockMinuteEvent s)
    unfold execClockMinuteEvent
    refine keepsResult_whenOperating ?_
    split
    · exact (State.Keeps.foldl State.keeps_evaluateLine allLines _).comp (.ofEq rfl rfl rfl rfl rfl rfl rfl)
    · exact .refl s
  | impulseCompletion l =>
    have completed := fun e r => (s.keeps_retain l e).trans (State.keeps_setLine _ l r)
    exact keepsResult_whenOperating (.ite
      (fun _ => .ite (fun _ => (completed _ _).trans (State.keeps_becomeOff _ l))
        fun _ => (completed _ _).trans (State.keeps_evaluateLine _ l))
      fun _ => .refl s)
  | spacingTimerExpiry l =>
    exact keepsResult_whenOperating
      (.ite (fun _ => (s.keeps_setLine l _).trans (State.keeps_evaluateLine _ l)) fun _ => .refl s)
  | lineFaultReport l kind =>
    have ended := fun e r => (s.keeps_retain l e).trans (State.keeps_setLine _ l r)
    exact keepsResult_whenOperating (.ite
      (fun _ => State.Keeps.trans (.ite (fun _ => ended _ _) fun _ => ended _ _) (State.keeps_raiseRouted _ _))
      fun _ => .refl s)
  | setDialShown c => exact keepsResult_serve (keeps_authorised (keeps_parsed keeps_dialServed)) s
  | lineOff c => exact keepsResult_serve (keeps_authorised (keeps_parsed fun l u => u.keeps_turnOff l)) s
  | lineOn c => exact keepsResult_serve (keeps_authorised (keeps_parsed keeps_lineOnServed)) s
  | clearLineFault c => exact keepsResult_serve (keeps_authorised (keeps_parsed keeps_clearFaultServed)) s
  | writeConfigItem c => exact keepsResult_serve (keeps_authorised (keeps_parsed keeps_writeItemServed)) s
  | readConfigItem c =>
    show KeepsResult s (execReadConfigItem c s)
    unfold execReadConfigItem
    refine keepsResult_serve (fun payload u => ?_) s
    unfold readItemServed
    split
    · split
      · exact .refl u
      · exact .refl u
    · exact .refl u
  | commitConfig c => exact keepsResult_serve (keeps_authorised (keeps_withoutPayload (keeps_commitConfigServed c))) s
  | configCommitCompletion success =>
    show KeepsResult s (execConfigCommitCompletion success s)
    unfold execConfigCommitCompletion
    refine keepsResult_whenOperating ?_
    split
    · have idle := s.keeps_store { s.store with engine := none } id
      exact .ite (fun _ => (State.keeps_raise _ _ _).comp (.ofEq rfl rfl rfl rfl rfl rfl rfl))
        fun _ => idle.trans (State.keeps_raise _ _ _)
    · exact .refl s
  | clearCounters c =>
    refine keepsResult_serve (keeps_authorised (keeps_withoutPayload fun u => ?_)) s
    have cleared := ((u.keeps_setPort_events .p0 u.ports.p0.cleared rfl rfl).trans
      (State.keeps_setPort_events _ .p1 u.ports.p1.cleared rfl rfl)).trans
      (State.keeps_setPort_events _ .cp u.ports.cp.cleared rfl rfl)
    exact cleared.trans (.ofEq rfl rfl rfl rfl rfl rfl rfl)
  | readEvent p => exact keepsResult_serve (keeps_withoutPayload (keeps_readEventServed p)) s
  | setEventEnable c =>
    exact keepsResult_serve (keeps_parsed fun _ u =>
      u.keeps_withEvents c.port _ List.filter_sublist) s
  | postWatch c => exact keepsResult_serve (keeps_parsed (keeps_postWatchServed c)) s
  | frameReceived p bytes =>
    show KeepsResult s (execFrameReceived p bytes s)
    unfold execFrameReceived
    exact keepsResult_whenOperating (.foldl (State.keeps_receiveByte p) bytes s)
  | frameGapExpiry p => exact keepsResult_disturbed p s
  | stopBitError p => exact keepsResult_disturbed p s
  | breakReceived p =>
    show KeepsResult s (execBreak p s)
    unfold execBreak
    exact keepsResult_whenOperating (s.keeps_setReceiver p _)
  | replySent p =>
    show KeepsResult s (execReplySent p s)
    unfold execReplySent
    refine keepsResult_whenOperating ?_
    split
    · exact .ite (fun _ => .refl s) fun _ => s.keeps_setService p _
    all_goals exact .refl s
  | tickArrival =>
    show KeepsResult s (execTickArrival s)
    unfold execTickArrival
    refine keepsResult_whenReleased (State.Keeps.trans (t := if s.time.completionDue then completeSecond s else s)
      (.ite (fun _ => keeps_completeSecond s) fun _ => .refl s) ?_)
    exact (State.keeps_runTimers _).comp (State.keeps_withTime _ _)
  | mainSupplyLoss =>
    exact keepsResult_next
      (((State.keeps_checkRetention _).comp (State.keeps_afterReset _)).comp (.ofEq rfl rfl rfl rfl rfl rfl rfl))
  | backupSupplyLoss =>
    exact keepsResult_next
      ((State.keeps_checkRetention _).comp (.ofEq rfl rfl rfl rfl rfl rfl rfl))
  | rowStorageFault row =>
    show KeepsResult s (execRowStorageFault row s)
    unfold execRowStorageFault
    split
    · exact keepsResult_next (s.keeps_store (s.store.failRow row) id)
    · intro t h
      cases h
  | readTime _ | readAuthority _ | readNotices _ | readCueStatus _ | readLines _ | readCounters _ | readIdent _ =>
    exact keepsResult_serve (keeps_withoutPayload .refl) s
  | readTextRow p => exact keepsResult_serve (keeps_parsed fun _ => .refl) s

/-- A step takes the front command from the queue, and keeps each invariant. -/
theorem step_keeps {s t : State} (h : step s = .next t) :
    ∃ rest : List Instr, ({ s with pending := rest } : State).Keeps t := by
  unfold step at h
  split at h
  · cases h
    exact ⟨s.pending, .refl s⟩
  · exact ⟨_, exec_keeps _ _ t h⟩

/-! ### A closed part (R190) -/

/-- Which rows the part takes only while it operates, which while it is released, and which always (R190, log 3). -/
theorem exec_next (i : Instr) (s : State) (h : i.actsWhileHeld = false) :
    ∃ t, exec i s = .next t ∧
      (s.power.operates = false → (i.actsBeforeOpening = true → s.power.held = true) → t = s) := by
  have served : ∀ {p code f}, ∃ t, serve p code f s = .next t ∧
      (s.power.operates = false → (i.actsBeforeOpening = true → s.power.held = true) → t = s) := by
    intro p code f
    obtain ⟨t, ht⟩ := serve_next p code f s
    refine ⟨t, ht, fun closed _ => ?_⟩
    rw [serve_closed closed] at ht
    exact (Host.Outcome.next.inj ht).symm
  cases i with
  | hardwareReset _ | resetEnd _ | mainSupplyLoss | backupSupplyLoss | rowStorageFault _ =>
    simp [Instr.actsWhileHeld] at h
  | secondCompletion | minutePulse | pulseIntervalExpiry | tickArrival =>
    exact ⟨_, rfl, fun _ held => if_pos (held rfl)⟩
  | tableMinuteEvent | tableRebase | yieldTimerExpiry | holderSilenceExpiry | rowCommitCompletion _
  | composerMinuteEvent | noticeRebase | cycleStart _ | pageTimerExpiry _ | partTimerExpiry _ | compositionStart
  | compositionCompletion | leadEnd _ | chainFrameSent _ | moduleAnswer _ _ _ _ | answerWindowExpiry _
  | refreshTimerExpiry _ | cueMinuteEvent | cueRebase | cueIssue | cueRefresh | cueWithdraw | recordEnded | slotFreed
  | boardCleared | playTimerExpiry | clockMinuteEvent | impulseCompletion _ | spacingTimerExpiry _
  | lineFaultReport _ _ | configCommitCompletion _ | frameReceived _ _ | frameGapExpiry _ | stopBitError _
  | breakReceived _ | replySent _ =>
    exact ⟨_, rfl, fun closed _ => if_neg (by simp [closed])⟩
  | _ => exact served

/-- A command that leaves a closed part as it is. -/
theorem exec_closed {i : Instr} {s : State} (h : i.actsWhileHeld = false) (closed : s.power.operates = false)
    (held : i.actsBeforeOpening = true → s.power.held = true) : exec i s = .next s := by
  obtain ⟨t, ht, unchanged⟩ := exec_next i s h
  rw [ht, unchanged closed held]

end Sys2Proof.Machine
end

section

open Sys2Proof Sys2Proof.Machine

/-- Settles O1: the step is that by definition. -/
theorem stepRunsTheFrontCommand : Obligations.StepRunsTheFrontCommand := by
  intro c rest s pending
  unfold step
  rw [pending]

/-- Settles O2. -/
theorem onlyStepTakesFromTheQueue : Obligations.OnlyStepTakesFromTheQueue := by
  refine ⟨fun s empty => ?_, fun c s t h => (exec_keeps c s t h).pending⟩
  unfold step
  rw [empty]

/-- Settles O3: the rows that act while the part is held always answer but for an absent row, and the others by
`exec_next`. -/
theorem onlyAnAbsentRowStops : Obligations.OnlyAnAbsentRowStops := by
  refine ⟨fun c s wellFormed => ?_, fun row s absent => if_neg (by omega)⟩
  cases held : c.actsWhileHeld with
  | false =>
    obtain ⟨t, h, -⟩ := exec_next c s held
    exact ⟨t, h⟩
  | true =>
    cases c with
    | hardwareReset _ | resetEnd _ | mainSupplyLoss | backupSupplyLoss => exact ⟨_, rfl⟩
    | rowStorageFault row => exact ⟨_, if_pos (by simpa [Instr.wellFormed] using wellFormed)⟩
    | _ => simp [Instr.actsWhileHeld] at held

/-- Settles O4. -/
theorem heldPartTakesNoCommand : Obligations.HeldPartTakesNoCommand :=
  ⟨fun _ _ held acts => exec_closed acts (Power.operates_held held) fun _ => held,
    fun _ _ closed acts before => exec_closed acts closed fun h => absurd (before.symm.trans h) nofun⟩

/-- Settles O5. -/
theorem stepKeepsTheTextCanonical : Obligations.StepKeepsTheTextCanonical := by
  intro s t canonical h
  obtain ⟨_, kept⟩ := step_keeps h
  exact kept.text canonical

/-- Settles O6. -/
theorem stepKeepsAttentionFollowing : Obligations.StepKeepsAttentionFollowing := by
  constructor
  · intro s t follows h
    obtain ⟨_, kept⟩ := step_keeps h
    exact kept.attention fun
      | .p0 => follows .p0
      | .p1 => follows .p1
      | .cp => follows .cp
  · intro s t ascending h
    obtain ⟨_, kept⟩ := step_keeps h
    exact kept.ascending fun
      | .p0 => ascending .p0
      | .p1 => ascending .p1
      | .cp => ascending .cp

/-- Settles O7. -/
theorem stepKeepsQueuesBounded : Obligations.StepKeepsQueuesBounded := by
  intro s t bounded h
  obtain ⟨_, kept⟩ := step_keeps h
  exact kept.queues bounded

/-- Settles O8. -/
theorem stepKeepsTheWaitSound : Obligations.StepKeepsTheWaitSound := by
  intro s t sound h
  obtain ⟨_, kept⟩ := step_keeps h
  exact kept.wait sound

/-- Settles O9. -/
theorem stepKeepsTheListSound : Obligations.StepKeepsTheListSound := by
  constructor
  · intro s t sound h
    obtain ⟨_, kept⟩ := step_keeps h
    exact kept.list sound
  · intro s t sound sorted h
    obtain ⟨_, kept⟩ := step_keeps h
    exact kept.sorted sound sorted

/-- Settles O10: the invariants hold of a part after any reset (`State.keeps_afterReset`), and of the empty text. -/
theorem resetMeetsTheInvariants : Obligations.ResetMeetsTheInvariants :=
  ⟨rfl, fun p => by cases p <;> rfl, fun p => by cases p <;> exact List.Pairwise.nil,
    fun k => by cases k <;> exact Nat.zero_le 16,
    ⟨nofun, Iff.intro (fun _ => rfl) fun _ => rfl, Iff.intro (fun _ => rfl) fun _ => rfl⟩,
    ⟨List.nodup_nil, fun i => by simp [State.reset, Table.reset]⟩, List.Pairwise.nil⟩

end

section
/-! Commands refused by a check (R33, R79), and resets, supplies and storage faults (R99, R189, R190). -/

namespace Sys2Proof.Machine

/-! ### Refusals -/

/-- What holds of every entry of a list holds of one that it lists. -/
theorem of_listed {α : Type} {l : List α} {P : α → Prop} {x : α} (listed : x ∈ l) (all : ∀ y ∈ l, P y) : P x :=
  all x listed

/-- A command refused: the reply is all that changes (R33). -/
theorem serve_refused {s : State} {p : Port} {code : Byte} {payload : List Byte} (h : s.commanded p code payload)
    {f : List Byte → State → Served} {st : Status}
    (refused : f payload (s.setService p (.serving code payload .taken)) =
      refuse (s.setService p (.serving code payload .taken)) st) :
    serve p code f s = .next (s.answered p code payload ⟨st, []⟩) := by
  rw [serve_commanded h, refused, refuse, Served.finish, State.answer_setService_taken]

/-- A reader of payloads that refuses BAD_ARGUMENT what is not readable (10.8). -/
def RefusesUnread (readable : Bool) (payload : List Byte) (f : List Byte → State → Served) (s : State) : Prop :=
  readable = false → f payload s = refuse s .badArgument

theorem parsed_refusesUnread {α : Type} {parse : List Byte → Option α} {payload : List Byte} {f : α → State → Served}
    {s : State} : RefusesUnread (parse payload).isSome payload (parsed parse f) s := by
  intro h
  rw [Option.isSome_eq_false_iff, Option.isNone_iff_eq_none] at h
  rw [parsed, h]

theorem withoutPayload_refusesUnread {payload : List Byte} {f : State → Served} {s : State} :
    RefusesUnread payload.isEmpty payload (withoutPayload f) s := by
  intro h
  rw [withoutPayload, if_neg (by rintro rfl; simp at h)]

/-- SEIZE AUTHORITY reads its payload while SEIZE ENABLE is YES (R75, log 17). -/
theorem seizeChecked_refusesUnread {c : Ctrl} {payload : List Byte} {s : State} :
    RefusesUnread (payload.isEmpty || !s.settings.seizeEnable) payload (seizeChecked c) s := by
  intro h
  obtain ⟨unread, enabled⟩ := (Bool.or_eq_false_iff).mp h
  rw [seizeChecked, if_pos (by simpa using enabled), withoutPayload_refusesUnread unread]

/-- SET TIME reads the times of day of 3 bytes (R14). -/
theorem parseTod_isSome (payload : List Byte) :
    (parseTod payload).isSome = decide (payload.length = 3 ∧ u24At payload 0 ≤ 86399) := by
  unfold parseTod
  split <;> simp_all

theorem authorised_refused {c : Ctrl} {s : State} (h : s.arbiter.holder ≠ some c) (f : List Byte → State → Served)
    (payload : List Byte) : authorised c f payload s = refuse s .notAuthority := if_neg h

/-- A command of another port than the holder's is refused NOT_AUTHORITY, whatever its payload (R79). -/
theorem serve_notAuthority {s : State} {c : Ctrl} {code : Byte} {payload : List Byte}
    (h : s.commanded c.port code payload) (holds : s.arbiter.holder ≠ some c) (f : List Byte → State → Served) :
    serve c.port code (authorised c f) s = .next (s.answered c.port code payload ⟨.notAuthority, []⟩) :=
  serve_refused h (authorised_refused (by rwa [State.setService_arbiter]) f payload)

/-- A command of a port that reads its payload before anything else: the command, its code and whether the payload is
readable. -/
def ReadsPayload (p : Port) (payload : List Byte) (s : State) (x : Instr × Byte × Bool) : Prop :=
  ∃ f, exec x.1 s = serve p x.2.1 f s ∧ RefusesUnread x.2.2 payload f (s.setService p (.serving x.2.1 payload .taken))

/-- A command that requires authority, and then reads its payload. -/
def ReadsAuthorised (c : Ctrl) (payload : List Byte) (s : State) (x : Instr × Byte × Bool) : Prop :=
  ∃ f, exec x.1 s = serve c.port x.2.1 (authorised c f) s ∧
    RefusesUnread x.2.2 payload f (s.setService c.port (.serving x.2.1 payload .taken))

/-- A command that requires authority, then reads its payload, then looks for the record of a code in it. -/
def ReadsRecord (c : Ctrl) (payload : List Byte) (s : State) (x : Instr × Byte × Option (List Byte)) : Prop :=
  ∃ (α : Type) (parse : List Byte → Option α) (f : α → State → Served) (name : α → List Byte),
    exec x.1 s = serve c.port x.2.1 (authorised c (parsed parse f)) s ∧ x.2.2 = (parse payload).map name ∧
      ∀ q u, ∃ g, f q u = withRecord u (name q) g

theorem serve_unread {s : State} {p : Port} {code : Byte} {payload : List Byte} (h : s.commanded p code payload)
    {readable : Bool} {f : List Byte → State → Served}
    (reads : RefusesUnread readable payload f (s.setService p (.serving code payload .taken)))
    (unread : readable = false) : serve p code f s = .next (s.answered p code payload ⟨.badArgument, []⟩) :=
  serve_refused h (reads unread)

theorem serve_authorised_unread {s : State} {c : Ctrl} {code : Byte} {payload : List Byte}
    (h : s.commanded c.port code payload) (holds : s.arbiter.holder = some c) {readable : Bool}
    {f : List Byte → State → Served} 
    (reads : RefusesUnread readable payload f (s.setService c.port (.serving code payload .taken)))
    (unread : readable = false) :
    serve c.port code (authorised c f) s = .next (s.answered c.port code payload ⟨.badArgument, []⟩) :=
  serve_refused h (by rw [authorised, State.setService_arbiter, if_pos holds, reads unread])

/-- No record of the table has a code: the code names none (R34). -/
theorem Table.findCode_eq_none {t : Table} {code : List Byte}
    (h : ∀ (j : Slot) (r : Record), t.slots[j] = some r → r.code ≠ code) : t.findCode code = none := by
  refine List.find?_eq_none.mpr fun j _ found => ?_
  obtain ⟨r, hr, e⟩ := (Option.any_eq_true _ _).mp found
  exact h j r hr (by simpa using e)

theorem withRecord_refused {s : State} {code : List Byte}
    (h : ∀ (j : Slot) (r : Record), s.table.slots[j] = some r → r.code ≠ code) (f : Slot → Record → Served) :
    withRecord s code f = refuse s .noRecord := by
  rw [withRecord, Table.findCode_eq_none h]

/-- A command of the holder that names a record by its code, given in its payload, which the table does not hold. -/
theorem serve_noRecord {α : Type} {s : State} {c : Ctrl} {code : Byte} {payload x : List Byte}
    (h : s.commanded c.port code payload) (holds : s.arbiter.holder = some c) {parse : List Byte → Option α}
    {f : α → State → Served} (name : α → List Byte) (named : (parse payload).map name = some x)
    (body : ∀ q u, ∃ g, f q u = withRecord u (name q) g)
    (absent : ∀ (j : Slot) (r : Record), s.table.slots[j] = some r → r.code ≠ x) :
    serve c.port code (authorised c (parsed parse f)) s = .next (s.answered c.port code payload ⟨.noRecord, []⟩) := by
  obtain ⟨q, read, rfl⟩ := Option.map_eq_some_iff.mp named
  obtain ⟨g, hg⟩ := body q (s.setService c.port (.serving code payload .taken))
  refine serve_refused h ?_
  rw [authorised, State.setService_arbiter, if_pos holds, parsed, read]
  exact hg.trans (withRecord_refused (by rwa [State.setService_table]) g)

/-! ### Resets (R190) -/

/-- The part after a reset that leaves these supplies and this retention area. -/
def State.resetWith (s : State) (main backup : Bool) (r : Retention) : State :=
  { ({ s with power := { s.power with main := main, backup := backup } } : State).afterReset with retention := r }

theorem exec_hardwareReset (cause : ResetCause) (s : State) :
    exec (.hardwareReset cause) s =
      .next (s.resetWith (s.power.caused cause).main (s.power.caused cause).backup s.retention) := by
  cases cause <;> rfl

theorem State.checkRetention_eq (s : State) : s.checkRetention = { s with
    retention := if s.power.main || s.power.backup then s.retention else { s.retention with valid := false } } := by
  unfold State.checkRetention
  split <;> rfl

theorem exec_mainSupplyLoss (s : State) :
    exec .mainSupplyLoss s = .next (s.resetWith false s.power.backup
      (if s.power.backup then s.retention else { s.retention with valid := false })) :=
  congrArg Host.Outcome.next (State.checkRetention_eq _)

/-- Which rows are FAILING after a reset: those that were, and the row of a row commit cut off (R99). -/
theorem TextStore.mem_afterReset_failing (t : TextStore) (r : Nat) :
    r ∈ t.afterReset.failing ↔ r ∈ t.failing ∨
      ∃ (row : Fin 512) (cells : List Byte) (c : Ctrl), t.engine = some ⟨.row row cells, c⟩ ∧ r = row.val := by
  unfold TextStore.afterReset
  split
  · next row cells c e =>
    rw [TextStore.failRow, mem_insertRow, or_comm]
    refine or_congr_right ⟨fun h => ⟨row, cells, c, e, h⟩, ?_⟩
    rintro ⟨row', cells', c', e', h⟩
    rw [e] at e'
    cases e'
    exact h
  · next e => exact ⟨.inl, fun h => h.elim id (by rintro ⟨_, _, _, e', -⟩; rw [e] at e'; cases e')⟩
  · next e => exact ⟨.inl, fun h => h.elim id (by rintro ⟨_, _, _, e', -⟩; rw [e] at e'; cases e')⟩

theorem StoredBlock.afterReset_bytes (b : StoredBlock) (t : TextStore) : (b.afterReset t).bytes = b.bytes := by
  unfold StoredBlock.afterReset
  split <;> rfl

/-- A configuration commit cut off leaves the block failing its CRC (R99). -/
theorem StoredBlock.afterReset_cutOff {b : StoredBlock} {t : TextStore} {items : Settings} {c : Ctrl}
    (h : t.engine = some ⟨.config items, c⟩) : (b.afterReset t).intact = false := by
  rw [StoredBlock.afterReset, h]
  rfl

theorem StoredBlock.afterReset_kept {b : StoredBlock} {t : TextStore}
    (h : ∀ (items : Settings) (c : Ctrl), t.engine ≠ some ⟨.config items, c⟩) : b.afterReset t = b := by
  unfold StoredBlock.afterReset
  split
  · next e => exact absurd e (h _ _)
  · rfl
  · rfl

theorem TextStore.afterReset_engine (t : TextStore) : t.afterReset.engine = none := by
  unfold TextStore.afterReset
  dsimp only
  split <;> rfl

theorem TextStore.afterReset_staging (t : TextStore) :
    t.afterReset.staging0 = Staging.reset ∧ t.afterReset.staging1 = Staging.reset := by
  unfold TextStore.afterReset
  dsimp only
  split <;> exact ⟨rfl, rfl⟩

/-! ### Storage faults (R85) -/

theorem TextStore.visible_failRow (t : TextStore) (row a : Nat) :
    (t.failRow row).visible a = if a / 16 = row then 0x20 else t.visible a := by
  unfold TextStore.visible TextStore.failRow
  simp only [List.contains_iff_mem, mem_insertRow]
  split_ifs <;> simp_all

end Sys2Proof.Machine
end

section

open Sys2Proof Sys2Proof.Machine

/-- Settles O11: the three causes of a reset are one (`State.resetWith`), and its fields are read off. -/
theorem resetsSuppliesAndStorageFaults : Obligations.ResetsSuppliesAndStorageFaults := by
  refine ⟨fun c main backup s cause => ?_, fun s => ?_, fun row s exists_ => ?_⟩
  · obtain ⟨r, hr, kept, lost⟩ : ∃ r, exec c s = .next (s.resetWith main backup r) ∧
        ((main = true ∨ backup = true ∨ c = .hardwareReset .resetInput) → r = s.retention) ∧
        (c = .mainSupplyLoss → backup = false → r.valid = false) := by
      rcases cause with ⟨rfl, rfl, rfl⟩ | ⟨rfl, rfl, rfl⟩ | ⟨rfl, rfl, rfl⟩
      · exact ⟨_, exec_hardwareReset _ s, fun _ => rfl, nofun⟩
      · exact ⟨_, exec_hardwareReset _ s, fun _ => rfl, nofun⟩
      · refine ⟨_, exec_mainSupplyLoss s, fun h => if_pos ?_, fun _ h => by rw [h]; rfl⟩
        simpa using h
    refine ⟨_, hr, rfl, rfl, rfl, rfl, fun p => ?_, rfl, rfl, ⟨fun i => ?_, rfl, rfl, rfl, rfl, rfl⟩,
      ⟨rfl, rfl, fun p => ?_, rfl, rfl, rfl, fun k => ?_⟩, fun k => ?_, rfl, ⟨rfl, rfl, rfl, fun l => ?_⟩,
      s.store.afterReset_cells, s.store.afterReset_engine, fun c => ?_, s.store.mem_afterReset_failing,
      s.stored.afterReset_bytes s.store, ?_, fun h => StoredBlock.afterReset_kept h, kept, lost⟩
    · cases p <;> rfl
    · exact Vector.getElem_replicate i.isLt
    · exact Vector.getElem_replicate p.isLt
    · exact Vector.getElem_replicate k.isLt
    · have link : (s.resetWith main backup r).links[k] = Link.reset := Vector.getElem_replicate k.isLt
      rw [link]
      exact ⟨rfl, rfl, rfl, rfl, rfl, rfl, rfl, rfl, rfl, fun r => Vector.getElem_replicate r.isLt⟩
    · exact Vector.getElem_replicate l.isLt
    · have buffer : (s.resetWith main backup r).staging c = Staging.reset := by
        cases c
        · exact s.store.afterReset_staging.1
        · exact s.store.afterReset_staging.2
      rw [buffer]
      exact ⟨rfl, rfl, fun i => ⟨Vector.getElem_replicate i.isLt, Vector.getElem_replicate i.isLt⟩⟩
    · rintro ⟨items, c, engine⟩
      exact StoredBlock.afterReset_cutOff engine
  · have lost := State.checkRetention_eq { s with power := { s.power with backup := false } }
    refine ⟨_, congrArg Host.Outcome.next lost, rfl, fun main => if_pos ?_, fun main => ?_⟩
    · simp [main]
    · simp [main]
  · refine ⟨_, if_pos exists_, rfl, fun r => mem_insertRow row r _, fun i hi => ?_, fun a ha => ?_⟩
    · exact (s.store.visible_failRow row _).trans (if_pos (by omega))
    · exact (s.store.visible_failRow row a).trans (if_neg ha)

/-- Settles O12: which check each command makes first is the shape of its meaning, and each shape refuses by one
lemma. -/
theorem checksRefuseInOrder : Obligations.ChecksRefuseInOrder := by
  refine ⟨fun c i code payload s listed commanded holds => ?_,
    fun c i code readable payload s listed commanded holds unread => ?_,
    fun c i code readable payload s listed commanded unread => ?_,
    fun p i code readable payload s listed commanded unread => ?_,
    fun c i code named x payload s listed commanded holds named_x absent => ?_, fun c payload s commanded absent => ?_⟩
  · obtain ⟨f, hf⟩ : ∃ f, exec i s = serve c.port code (authorised c f) s := by
      refine of_listed (P := fun x => ∃ f, exec x.1 s = serve c.port x.2 (authorised c f) s) listed ?_
      simp only [List.forall_mem_cons]
      exact ⟨⟨_, rfl⟩, ⟨_, rfl⟩, ⟨_, rfl⟩, ⟨_, rfl⟩, ⟨_, rfl⟩, ⟨_, rfl⟩, ⟨_, rfl⟩, ⟨_, rfl⟩, ⟨_, rfl⟩, ⟨_, rfl⟩, ⟨_, rfl⟩,
        ⟨_, rfl⟩, ⟨_, rfl⟩, ⟨_, rfl⟩, ⟨_, rfl⟩, ⟨_, rfl⟩, ⟨_, rfl⟩, ⟨_, rfl⟩, ⟨_, rfl⟩, ⟨_, rfl⟩, ⟨_, rfl⟩, ⟨_, rfl⟩,
        ⟨_, rfl⟩, ⟨_, rfl⟩, ⟨_, rfl⟩, ⟨_, rfl⟩, nofun⟩
    exact hf.trans (serve_notAuthority commanded holds f)
  · have parsed : ∀ {α : Type} {parse : List Byte → Option α} {i code} {f : α → State → Served},
        exec i s = serve c.port code (authorised c (parsed parse f)) s →
        ReadsAuthorised c payload s (i, code, (parse payload).isSome) := fun h => ⟨_, h, parsed_refusesUnread⟩
    have bare : ∀ {i code} {f : State → Served}, exec i s = serve c.port code (authorised c (withoutPayload f)) s →
        ReadsAuthorised c payload s (i, code, payload.isEmpty) := fun h => ⟨_, h, withoutPayload_refusesUnread⟩
    obtain ⟨f, hf, reads⟩ : ReadsAuthorised c payload s (i, code, readable) := by
      refine of_listed listed ?_
      simp only [List.forall_mem_cons, ← parseTod_isSome]
      exact ⟨parsed rfl, parsed rfl, parsed rfl, parsed rfl, parsed rfl, parsed rfl, parsed rfl, parsed rfl, parsed rfl,
        parsed rfl, bare rfl, parsed rfl, parsed rfl, parsed rfl, bare rfl, bare rfl, parsed rfl, parsed rfl,
        parsed rfl, parsed rfl, parsed rfl, parsed rfl, parsed rfl, parsed rfl, bare rfl, bare rfl, nofun⟩
    exact hf.trans (serve_authorised_unread commanded holds reads unread)
  · have parsed : ∀ {α : Type} {parse : List Byte → Option α} {i code} {f : α → State → Served},
        exec i s = serve c.port code (parsed parse f) s →
        ReadsPayload c.port payload s (i, code, (parse payload).isSome) := fun h => ⟨_, h, parsed_refusesUnread⟩
    have bare : ∀ {i code} {f : State → Served}, exec i s = serve c.port code (withoutPayload f) s →
        ReadsPayload c.port payload s (i, code, payload.isEmpty) := fun h => ⟨_, h, withoutPayload_refusesUnread⟩
    have seize : ReadsPayload c.port payload s
        (.seizeAuthority c, codeSeizeAuthority, payload.isEmpty || !s.settings.seizeEnable) :=
      ⟨_, rfl, s.setService_settings c.port (.serving codeSeizeAuthority payload .taken) ▸ seizeChecked_refusesUnread⟩
    obtain ⟨f, hf, reads⟩ : ReadsPayload c.port payload s (i, code, readable) := by
      refine of_listed listed ?_
      simp only [List.forall_mem_cons]
      exact ⟨parsed rfl, parsed rfl, bare rfl, seize, bare rfl, bare rfl, bare rfl, bare rfl, bare rfl, parsed rfl,
        parsed rfl, nofun⟩
    exact hf.trans (serve_unread commanded reads unread)
  · have parsed : ∀ {α : Type} {parse : List Byte → Option α} {i code} {f : α → State → Served},
        exec i s = serve p code (parsed parse f) s →
        ReadsPayload p payload s (i, code, (parse payload).isSome) := fun h => ⟨_, h, parsed_refusesUnread⟩
    have bare : ∀ {i code} {f : State → Served}, exec i s = serve p code (withoutPayload f) s →
        ReadsPayload p payload s (i, code, payload.isEmpty) := fun h => ⟨_, h, withoutPayload_refusesUnread⟩
    have shape : ReadsPayload p payload s (i, code, readable) := by
      rcases listed with listed | ⟨rfl, listed⟩
      · refine of_listed listed ?_
        simp only [List.forall_mem_cons]
        exact ⟨bare rfl, parsed rfl, bare rfl, bare rfl, bare rfl, nofun⟩
      · refine of_listed listed ?_
        simp only [List.forall_mem_cons]
        exact ⟨bare rfl, parsed rfl, nofun⟩
    obtain ⟨f, hf, reads⟩ := shape
    exact hf.trans (serve_unread commanded reads unread)
  · have code_whole : parseCode payload = (parseCode payload).map id := (congrFun Option.map_id _).symm
    have field : ∀ {i α code n field} {f : List Byte × α → State → Served},
        exec i s = serve c.port code (authorised c (parsed (parseCodeAnd n field) f)) s →
        (∀ q u, ∃ g, f q u = withRecord u q.1 g) →
        ReadsRecord c payload s (i, code, (parseCodeAnd n field payload).map Prod.fst) :=
      fun h body => ⟨_, _, _, Prod.fst, h, rfl, body⟩
    have whole : ∀ {i code} {f : List Byte → State → Served},
        exec i s = serve c.port code (authorised c (parsed parseCode f)) s →
        (∀ q u, ∃ g, f q u = withRecord u q g) → ReadsRecord c payload s (i, code, parseCode payload) :=
      fun h body => ⟨_, _, _, id, h, code_whole, body⟩
    obtain ⟨_, _, _, _, hf, read, body⟩ : ReadsRecord c payload s (i, code, named) := by
      refine of_listed listed ?_
      simp only [List.forall_mem_cons]
      exact ⟨field rfl fun _ _ => ⟨_, rfl⟩, field rfl fun _ _ => ⟨_, rfl⟩, field rfl fun _ _ => ⟨_, rfl⟩,
        field rfl fun _ _ => ⟨_, rfl⟩, field rfl fun _ _ => ⟨_, rfl⟩, whole rfl fun _ _ => ⟨_, rfl⟩,
        whole rfl fun _ _ => ⟨_, rfl⟩, whole rfl fun _ _ => ⟨_, rfl⟩, whole rfl fun _ _ => ⟨_, rfl⟩, nofun⟩
    exact hf.trans (serve_noRecord commanded holds _ (read.symm.trans named_x) body absent)
  · rw [show exec (.readRecord c) s = serve c.port codeReadRecord (parsed parseRecordName readRecordServed) s from rfl]
    refine serve_refused commanded ?_
    rcases absent with ⟨i, read, free⟩ | ⟨x, read, absent⟩
    · rw [parsed, read]
      dsimp only [readRecordServed]
      rw [State.setService_table, free]
    · rw [parsed, read]
      exact withRecord_refused (by rwa [State.setService_table]) _

end

section
/-! The start-up sequence (R188 to R191): what a RESET_END runs of it, and what the whole of it leaves. -/

namespace Sys2Proof.Machine

/-! ### First cycle starts -/

theorem State.startCycle_links (s : State) (c k : Chain) : (s.startCycle c).links[k] =
    if k = c then s.links[c].startCycle s.settings.plans[c] else s.links[k] :=
  put_get s.links c k _

theorem State.startCycle_views (s : State) (c k : Chain) : (s.startCycle c).composer.views[k] =
    if k = c then s.composer.views[c].startCycle s.settings.plans[c] s.table else s.composer.views[k] :=
  put_get s.composer.views c k _

/-- The first cycle start of every chain, each under its own plan (R190, R124). -/
theorem startCycles_chains (s : State) (k : Chain) :
    (allChains.foldl State.startCycle s).links[k] = s.links[k].startCycle s.settings.plans[k] ∧
    (allChains.foldl State.startCycle s).composer.views[k] =
      s.composer.views[k].startCycle s.settings.plans[k] s.table := by
  have plans : ∀ (u : State) (c : Chain), (u.startCycle c).settings = u.settings ∧ (u.startCycle c).table = u.table :=
    fun _ _ => ⟨rfl, rfl⟩
  simp only [allChains, List.foldl_cons, List.foldl_nil, State.startCycle_links, State.startCycle_views, plans]
  fin_cases k <;> simp

theorem startCycles_spec (s : State) : allChains.foldl State.startCycle s = { s with
    composer := (allChains.foldl State.startCycle s).composer, links := (allChains.foldl State.startCycle s).links } := by
  apply State.eq_of_fields <;> simp [allChains, State.startCycle]

theorem ChainView.updatePage_spec (v : ChainView) :
    v.updatePage = { v with page := v.updatePage.page, pageTimer := v.updatePage.pageTimer } := by
  fun_cases ChainView.updatePage v <;> rfl

/-- What a cycle start leaves running: the plan, the first row next, and the composer's view RUNNING (R103). -/
theorem ChainView.startCycle_running (v : ChainView) (plan : ChainPlan) (t : Table) :
    (v.startCycle plan t).plan = plan ∧ (v.startCycle plan t).running = true ∧ (v.startCycle plan t).nextRow = 1 := by
  unfold ChainView.startCycle
  dsimp only
  split
  · exact ⟨rfl, rfl, rfl⟩
  · split
    · rw [ChainView.updatePage_spec]
      exact ⟨rfl, rfl, rfl⟩
    · rw [ChainView.updatePage_spec]
      exact ⟨rfl, rfl, rfl⟩

/-! ### The configuration formed at start-up (R188) -/

theorem State.loadSettings_spec (s : State) : ∃ (cfg : Settings) (defaulted : Bool) (ports : Ports),
    s.loadSettings = { s with settings := cfg, ident := { s.ident with configDefaulted := defaulted }, ports := ports } ∧
    (s.stored.intact = true → cfg = s.stored.settings ∧ defaulted = false ∧ ports = s.ports) ∧
    (s.stored.intact = false →
      cfg = defaultSettings ∧ defaulted = true ∧ ports = (s.raiseBoth .configDefaulted).ports) := by
  unfold State.loadSettings
  split
  · next h => exact ⟨_, _, _, rfl, fun _ => ⟨rfl, rfl, rfl⟩, fun k => absurd (h.symm.trans k) nofun⟩
  · next h => exact ⟨_, _, _, State.raiseRouted_spec _ _, fun k => absurd k h, fun _ => ⟨rfl, rfl, rfl⟩⟩

/-! ### How far one RESET_END carries the sequence (log 23) -/

/-- The step that follows a step of the sequence (R190). -/
def stageAfter : StartStage → Option StartStage
  | .straps => some .configuration
  | .configuration => some .rows
  | .rows => some .lines
  | .lines => some .ports
  | .ports => some .cycles
  | .cycles => none

theorem State.startStep_startup (s : State) (straps : Straps) (g : StartStage) :
    (s.startStep straps g).power.startup = stageAfter g := by
  obtain ⟨-, -, -, -, -, -, power⟩ := s.startStep_spec straps g
  rw [power]
  cases g <;> rfl

theorem State.startStep_held (s : State) (straps : Straps) (g : StartStage) :
    (s.startStep straps g).power.held = s.power.held := by
  obtain ⟨-, -, -, -, -, -, power⟩ := s.startStep_spec straps g
  rw [power]

/-- The steps of a list, one after another. -/
def State.steps (straps : Straps) (l : List StartStage) (s : State) : State :=
  l.foldl (fun s g => s.startStep straps g) s

/-- The steps from the first through one. -/
def stagesThrough : StartStage → List StartStage
  | .straps => [.straps]
  | .configuration => [.straps, .configuration]
  | .rows => [.straps, .configuration, .rows]
  | .lines => [.straps, .configuration, .rows, .lines]
  | .ports => [.straps, .configuration, .rows, .lines, .ports]
  | .cycles => allStages

/-- The steps after one. -/
def stagesBehind : StartStage → List StartStage
  | .straps => [.configuration, .rows, .lines, .ports, .cycles]
  | .configuration => [.rows, .lines, .ports, .cycles]
  | .rows => [.lines, .ports, .cycles]
  | .lines => [.ports, .cycles]
  | .ports => [.cycles]
  | .cycles => []

/-- A sequence that stands before its first step runs the steps through the run's (log 23). -/
theorem State.startUp_first {s : State} (h : s.power.startup = some .straps) (straps : Straps) (upTo : StartStage) :
    s.startUp ⟨straps, upTo⟩ = s.steps straps (stagesThrough upTo) := by
  cases upTo <;>
    simp [State.startUp, State.steps, stagesThrough, allStages, stageNumber, h, State.startStep_startup, stageAfter]

/-- A sequence carried on from behind a step runs the steps behind it. -/
theorem State.startUp_behind {s : State} {g : StartStage} (h : s.power.startup = stageAfter g) (straps : Straps) :
    s.startUp ⟨straps, .cycles⟩ = s.steps straps (stagesBehind g) := by
  cases g <;>
    simp [State.startUp, State.steps, stagesBehind, allStages, stageNumber, h, State.startStep_startup, stageAfter]

theorem State.startUp_done {s : State} (h : s.power.startup = none) (run : StartRun) : s.startUp run = s := by
  simp [State.startUp, allStages, h]

/-- The straps are sampled at the first step alone (R190). -/
theorem State.steps_behind_straps (s : State) (g : StartStage) (straps again : Straps) :
    s.steps again (stagesBehind g) = s.steps straps (stagesBehind g) := by
  cases g <;> rfl

theorem State.steps_through_behind (s : State) (g : StartStage) (straps : Straps) :
    (s.steps straps (stagesThrough g)).steps straps (stagesBehind g) = s.steps straps allStages := by
  have append : stagesThrough g ++ stagesBehind g = allStages := by cases g <;> rfl
  rw [← append]
  exact List.foldl_append.symm

theorem State.steps_startup (s : State) (straps : Straps) (g : StartStage) :
    (s.steps straps (stagesThrough g)).power.startup = stageAfter g ∧
      (s.steps straps (stagesThrough g)).power.held = s.power.held := by
  cases g <;>
    simp only [State.steps, stagesThrough, allStages, List.foldl_cons, List.foldl_nil, State.startStep_startup,
      State.startStep_held, and_self]

/-- The part released, its sequence at the first step (R190). -/
def State.releasedHeld (s : State) : State := { s with power := { s.power with held := false, startup := some .straps } }

theorem exec_resetEnd_held {s : State} (held : s.power.held = true) (main : s.power.main = true) (straps : Straps)
    (upTo : StartStage) :
    exec (.resetEnd ⟨straps, upTo⟩) s = .next (s.releasedHeld.steps straps (stagesThrough upTo)) := by
  show Host.Outcome.next _ = _
  rw [if_pos held, if_pos main, State.startUp_first rfl]
  rfl

theorem exec_resetEnd_released {s : State} (released : s.power.held = false) (run : StartRun) :
    exec (.resetEnd run) s = .next (s.startUp run) := by
  show Host.Outcome.next _ = _
  rw [if_neg (by simp [released])]

/-- The lines as a configuration and the retention area restore them (R171). -/
def Retention.restored (r : Retention) (cfg : Settings) : Vector LineRecord 4 :=
  Vector.ofFn fun l : Fin 4 => restoredLine r.valid cfg.lines[l].enabled r.entries[l]

/-- What the whole sequence leaves (R188 to R191). -/
theorem State.steps_whole (s : State) (straps : Straps) :
    ∃ (cfg : Settings) (defaulted : Bool) (ports : Ports),
      (s.stored.intact = true → cfg = s.stored.settings ∧ defaulted = false ∧ ports = s.ports) ∧
      (s.stored.intact = false →
        cfg = defaultSettings ∧ defaulted = true ∧ ports = (s.raiseBoth .configDefaulted).ports) ∧
      s.releasedHeld.steps straps allStages = { s with
        power := { s.power with held := false, startup := none }
        ident := ⟨straps, s.store.failing.length, defaulted, s.retention.valid⟩
        settings := cfg
        retention := if s.retention.valid then s.retention else ⟨Vector.replicate 4 RetentionEntry.rewritten, true⟩
        ports := ports
        composer := (s.releasedHeld.steps straps allStages).composer
        links := (s.releasedHeld.steps straps allStages).links
        cues := s.cues.reload cfg
        clock := { s.clock with lines := s.retention.restored cfg } } ∧
      ∀ k : Chain, (s.releasedHeld.steps straps allStages).links[k] = s.links[k].startCycle cfg.plans[k] ∧
        (s.releasedHeld.steps straps allStages).composer.views[k] =
          s.composer.views[k].startCycle cfg.plans[k] s.table := by
  obtain ⟨cfg, defaulted, ports, loaded, intact, failing⟩ :=
    State.loadSettings_spec (s.releasedHeld.startStep straps .straps)
  have ported : s.releasedHeld.steps straps (stagesThrough .ports) = { s with
      power := { s.power with held := false, startup := some .cycles }
      ident := ⟨straps, s.store.failing.length, defaulted, s.retention.valid⟩
      settings := cfg
      retention := if s.retention.valid then s.retention else ⟨Vector.replicate 4 RetentionEntry.rewritten, true⟩
      ports := ports
      cues := s.cues.reload cfg
      clock := { s.clock with lines := s.retention.restored cfg } } := by
    have configured : (s.releasedHeld.startStep straps .straps).startStep straps .configuration = { s with
        power := { s.power with held := false, startup := some .rows }
        ident := { s.ident with straps := straps, configDefaulted := defaulted }
        settings := cfg, ports := ports, cues := s.cues.reload cfg } := by
      simp only [State.startStep] at loaded ⊢
      rw [loaded]
      rfl
    show ((((s.releasedHeld.startStep straps .straps).startStep straps .configuration).startStep straps .rows).startStep
      straps .lines).startStep straps .ports = _
    rw [configured]
    rfl
  have whole : s.releasedHeld.steps straps allStages =
      { allChains.foldl State.startCycle (s.releasedHeld.steps straps (stagesThrough .ports)) with
        power := { (allChains.foldl State.startCycle (s.releasedHeld.steps straps (stagesThrough .ports))).power with
          startup := none } } := rfl
  refine ⟨cfg, defaulted, ports, intact, failing, ?_, fun k => ?_⟩
  · rw [whole, startCycles_spec, ported]
  · rw [whole, ported]
    exact startCycles_chains _ k

end Sys2Proof.Machine
end

section

open Sys2Proof Sys2Proof.Machine

/-- Settles O13: the sequence is the list of its steps, cut where the run ends. -/
theorem startUpRunsTheSequence : Obligations.StartUpRunsTheSequence := by
  refine ⟨fun straps s held main => ?_, fun straps s l held main => ?_, fun straps upTo s held main => ?_,
    fun straps upTo s idle => ?_⟩
  · obtain ⟨cfg, defaulted, ports, intact, failing, whole, chains⟩ := s.steps_whole straps
    refine ⟨_, exec_resetEnd_held held main straps .cycles, ?_⟩
    simp only [stagesThrough]
    have settings : (s.releasedHeld.steps straps allStages).settings = cfg := by rw [whole]
    have running := fun k : Chain => s.composer.views[k].startCycle_running cfg.plans[k] s.table
    refine ⟨by rw [whole], by rw [whole], by rw [whole], by rw [whole], by rw [whole], by rw [whole], by rw [whole],
      by rw [whole], fun h => ?_, fun h => ?_, by rw [whole]; exact ⟨rfl, rfl, rfl⟩, fun k => ?_, by rw [whole]⟩
    · obtain ⟨e1, e2, e3⟩ := intact h
      exact ⟨settings.trans e1, by rw [whole]; exact e2, by rw [whole]; exact e3⟩
    · obtain ⟨e1, e2, e3⟩ := failing h
      exact ⟨settings.trans e1, by rw [whole]; exact e2, by rw [whole]; exact e3⟩
    · obtain ⟨link, view⟩ := chains k
      simp only [link, view, settings]
      exact ⟨rfl, rfl, rfl, rfl, running k⟩
  · obtain ⟨cfg, defaulted, ports, -, -, whole, -⟩ := s.steps_whole straps
    refine ⟨_, exec_resetEnd_held held main straps .cycles, ?_⟩
    have line : (s.releasedHeld.steps straps allStages).clock.lines[l] =
        restoredLine s.retention.valid cfg.lines[l].enabled s.retention.entries[l] := by
      rw [whole]
      exact Vector.getElem_ofFn ..
    have settings : (s.releasedHeld.steps straps allStages).settings = cfg := by rw [whole]
    have retention : (s.releasedHeld.steps straps allStages).retention =
        if s.retention.valid then s.retention else ⟨Vector.replicate 4 RetentionEntry.rewritten, true⟩ := by rw [whole]
    simp only [stagesThrough, line, settings, retention]
    refine ⟨?_, by rw [whole], rfl, rfl, rfl, fun valid => ?_, fun invalid => ?_⟩
    · split
      · assumption
      · rfl
    · simp only [valid, if_pos, restoredLine]
      exact ⟨trivial, trivial, fun clear => by rw [clear]; exact ⟨rfl, rfl⟩, fun set => by rw [set]; exact ⟨rfl, rfl⟩⟩
    · simp [invalid, restoredLine, RetentionEntry.rewritten]
  · obtain ⟨startup, released⟩ := s.releasedHeld.steps_startup straps upTo
    have opened : (s.releasedHeld.steps straps (stagesThrough upTo)).power.operates =
        decide (upTo = .ports ∨ upTo = .cycles) := by
      unfold Power.operates
      rw [startup, released]
      cases upTo <;> rfl
    refine ⟨_, exec_resetEnd_held held main straps upTo, released, startup.trans (by cases upTo <;> rfl), ?_, fun p => ?_,
      fun again => ?_⟩
    · rw [State.operating, opened, decide_eq_true_iff]
    · rw [State.attentionLine, opened]
    · rw [exec_resetEnd_released released, exec_resetEnd_held held main, State.startUp_behind startup,
        State.steps_behind_straps _ upTo straps again, State.steps_through_behind]
      rfl
  · rcases idle with ⟨held, main⟩ | ⟨released, done⟩
    · show Host.Outcome.next _ = _
      rw [if_pos held, if_neg (by simp [main])]
    · rw [exec_resetEnd_released released, State.startUp_done done]

end

section
/-! The count of true time (R1, R2, R4, R7): tick arrivals, the completion of a second, and READ TIME. -/

namespace Sys2Proof.Machine

/-! ### Reading commands -/

/-- A command without payload that every port takes and that only answers. -/
theorem serve_reads {s : State} {p : Port} {code : Byte} (h : s.commanded p code []) {f : State → List Byte}
    (reads : f (s.setService p (.serving code [] .taken)) = f s) :
    serve p code (withoutPayload fun s => done s (f s)) s = .next (s.answered p code [] ⟨.done, f s⟩) := by
  rw [serve_commanded h, withoutPayload, if_pos rfl, done, reads, Served.finish, State.answer_setService_taken]

theorem refItem_number (t : TimeBase) : refItem t = t.ref.number := by
  unfold refItem
  cases t.ref <;> rfl

/-! ### The second in progress (R1) -/

/-- What a tick arrival does to the count: nothing else of the Time Base changes (R1). -/
theorem TimeBase.count_frame (t : TimeBase) : t.count = { t with
    tick := t.count.tick, secondTicks := t.count.secondTicks, completionDue := t.count.completionDue } := by
  unfold TimeBase.count
  split
  · rfl
  all_goals split <;> rfl

theorem TimeBase.count_unset {t : TimeBase} (h : t.state = .unset) : t.count = t := by
  rw [TimeBase.count, h]

theorem TimeBase.count_set {t : TimeBase} (h : t.state ≠ .unset) :
    t.count = if t.tick + t.advance > 1023 then { t with secondTicks := t.secondTicks + 1, completionDue := true }
      else { t with tick := t.tick + t.advance, secondTicks := t.secondTicks + 1 } := by
  unfold TimeBase.count
  split
  · next e => exact absurd e h
  · rfl
  · rfl

/-- The Time Base after the completion of a second: F to 0, S on by one, the next second begun (R2). -/
def TimeBase.completed (t : TimeBase) : TimeBase :=
  ({ t with second := if t.second = 86399 then 0 else t.second + 1, tick := 0 } : TimeBase).beginSecond

/-- The next second's adjustment, of at most 16 ticks, is taken off Q (R1). -/
theorem TimeBase.completed_spec (t : TimeBase) : ∃ (n : Nat) (q : Int) (a : Adjustment),
    t.completed = { t with
      second := n, tick := 0, slew := q, adjustment := a, secondTicks := 0, completionDue := false } ∧
    n = (if t.second = 86399 then 0 else t.second + 1) ∧
    (0 < t.slew → a = .shortened (min t.slew.natAbs 16) ∧ q = t.slew - (min t.slew.natAbs 16 : Nat)) ∧
    (t.slew < 0 → a = .lengthened (min t.slew.natAbs 16) ∧ q = t.slew + (min t.slew.natAbs 16 : Nat)) ∧
    (t.slew = 0 → a = .normal ∧ q = 0) := by
  unfold TimeBase.completed TimeBase.beginSecond
  dsimp only
  split
  · next h => exact ⟨_, _, _, rfl, rfl, fun _ => ⟨rfl, rfl⟩, fun k => by omega, fun k => by omega⟩
  · split
    · next h => exact ⟨_, _, _, rfl, rfl, fun k => by omega, fun _ => ⟨rfl, rfl⟩, fun k => by omega⟩
    · exact ⟨_, _, _, rfl, rfl, fun k => by omega, fun k => by omega, fun k => ⟨rfl, k⟩⟩

/-! ### Deliveries (log 13) -/

/-- What is posted changes what waits, what the four blocks are handed, and the ports (R3, R4). -/
theorem State.post_frame (s : State) (ds : List Delivery) : s.post ds = { s with
    table := { s.table with inbox := (s.post ds).table.inbox }
    composer := { s.composer with inbox := (s.post ds).composer.inbox }
    cues := { s.cues with minutes := (s.post ds).cues.minutes }
    clock := { s.clock with inbox := (s.post ds).clock.inbox }
    time := { s.time with rollover := (s.post ds).time.rollover, outbox := (s.post ds).time.outbox }
    ports := (s.post ds).ports } := by
  unfold State.post
  split
  · exact deliver_frame ds s
  · rfl

theorem State.post_now {s : State} (h : s.time.rollover = none) (ds : List Delivery) : s.post ds = deliver ds s := by
  rw [State.post, h]

theorem State.post_waits {s : State} {stage : RolloverStage} (h : s.time.rollover = some stage) (ds : List Delivery) :
    s.post ds = { s with time := { s.time with outbox := s.time.outbox ++ ds } } := by
  rw [State.post, h]

theorem State.setTimeState_spec (s : State) (v : TimeState) :
    s.setTimeState v = { s with time := { s.time with state := v }, ports := (s.setTimeState v).ports } :=
  State.noted_spec s { s with time := { s.time with state := v } }

/-! ### The completion of a second (R2) -/

theorem completeSecond_unset {s : State} (h : s.time.state = .unset) : completeSecond s = s := by
  simp only [completeSecond, h]

/-- In RUNNING a wrap posts the rollover with the minute event for 0 behind it, and a new minute its minute event (R2,
R4). -/
theorem completeSecond_running {s : State} (h : s.time.state = .running) :
    completeSecond s =
      if s.time.second = 86399 then ({ s with time := s.time.completed } : State).post [.rollover, .minute 0]
      else if (s.time.second + 1) / 60 ≠ s.time.second / 60 then
        ({ s with time := s.time.completed } : State).post [.minute ((s.time.second + 1) / 60)]
      else { s with time := s.time.completed } := by
  simp only [completeSecond, h, TimeBase.completed]
  split_ifs <;> rfl

theorem completeSecond_wrap {s : State} (h : s.time.state = .running) (wrap : s.time.second = 86399) :
    completeSecond s = ({ s with time := s.time.completed } : State).post [.rollover, .minute 0] := by
  rw [completeSecond_running h, if_pos wrap]

theorem completeSecond_minute {s : State} (h : s.time.state = .running) (within : s.time.second ≠ 86399)
    (minute : (s.time.second + 1) / 60 ≠ s.time.second / 60) :
    completeSecond s = ({ s with time := s.time.completed } : State).post [.minute ((s.time.second + 1) / 60)] := by
  rw [completeSecond_running h, if_neg within, if_pos minute]

theorem completeSecond_within {s : State} (h : s.time.state = .running) (within : s.time.second ≠ 86399)
    (minute : (s.time.second + 1) / 60 = s.time.second / 60) : completeSecond s = { s with time := s.time.completed } := by
  rw [completeSecond_running h, if_neg within, if_neg (not_not_intro minute)]

/-- In HOLDING a completion that reaches the hold minute ends the hold (R7). -/
theorem completeSecond_holding {s : State} {m : Nat} (h : s.time.state = .holding m) :
    completeSecond s =
      if s.time.completed.second / 60 = m then ({ s with time := s.time.completed } : State).setTimeState .running
      else { s with time := s.time.completed } := by
  obtain ⟨n, q, a, completed, next, -⟩ := s.time.completed_spec
  rw [show s.time.completed.second = if s.time.second = 86399 then 0 else s.time.second + 1 by rw [completed, next]]
  simp only [completeSecond, h, TimeBase.completed]

/-- A completion changes the Time Base, what it delivers, and the ports; it is then due no longer (R2). -/
theorem completeSecond_frame (s : State) :
    (completeSecond s).power = s.power ∧ (s.time.state ≠ .unset → (completeSecond s).time.completionDue = false) ∧
      (completeSecond s).time.pulseInterval = s.time.pulseInterval := by
  obtain ⟨n, q, a, completed, -⟩ := s.time.completed_spec
  have posted : ∀ ds, (({ s with time := s.time.completed } : State).post ds).time.completionDue = false ∧
      (({ s with time := s.time.completed } : State).post ds).power = s.power ∧
      (({ s with time := s.time.completed } : State).post ds).time.pulseInterval = s.time.pulseInterval := by
    intro ds
    rw [State.post_frame, completed]
    exact ⟨rfl, rfl, rfl⟩
  cases h : s.time.state with
  | unset =>
    rw [completeSecond_unset h]
    exact ⟨rfl, fun k => absurd rfl k, rfl⟩
  | running =>
    rw [completeSecond_running h]
    split_ifs
    · exact ⟨(posted _).2.1, fun _ => (posted _).1, (posted _).2.2⟩
    · exact ⟨(posted _).2.1, fun _ => (posted _).1, (posted _).2.2⟩
    · rw [completed]
      exact ⟨rfl, fun _ => rfl, rfl⟩
  | holding m =>
    rw [completeSecond_holding h, completed]
    split_ifs
    · rw [State.setTimeState_spec]
      exact ⟨rfl, fun _ => rfl, rfl⟩
    · exact ⟨rfl, fun _ => rfl, rfl⟩

theorem exec_secondCompletion {s : State} (released : s.released) (due : s.time.completionDue = true) :
    exec .secondCompletion s = .next (completeSecond s) := by
  show whenReleased s _ = _
  rw [whenReleased_released released, if_pos due]

/-- The part one tick later: the count, the pulse interval and every timer (R1, R2; log 9). -/
def State.ticked (s : State) : State :=
  ({ s with time := ({ s.time with pulseInterval := s.time.pulseInterval.map (· + 1) } : TimeBase).count } :
    State).runTimers

theorem exec_tickArrival {s : State} (released : s.released) :
    exec .tickArrival s = .next (State.ticked (if s.time.completionDue then completeSecond s else s)) := by
  show execTickArrival s = _
  unfold execTickArrival
  rw [whenReleased_released released]
  rfl

end Sys2Proof.Machine
end

section

open Sys2Proof Sys2Proof.Machine

/-- Settles O14. -/
theorem tickArrivalCountsOneTick : Obligations.TickArrivalCountsOneTick := by
  refine ⟨fun s released idle => ?_, fun s t released due completed => ?_⟩
  · refine ⟨_, exec_tickArrival released, ?_⟩
    rw [if_neg (by simp [idle])]
    have counted : (State.ticked s).time =
        ({ s.time with pulseInterval := s.time.pulseInterval.map (· + 1) } : TimeBase).count := rfl
    refine ⟨?_, fun unset => ?_, fun move set moved => ?_, Timer.tick_ticked _, Timer.tick_ticked _, fun k => ?_,
      fun k => ?_, fun l => ?_⟩
    · have frame := TimeBase.count_frame { s.time with pulseInterval := s.time.pulseInterval.map (· + 1) }
      rw [← counted] at frame
      conv_rhs => rw [← frame]
      rfl
    · rw [counted, TimeBase.count_unset (by exact unset)]
      exact ⟨rfl, rfl, idle⟩
    · have advance : ({ s.time with pulseInterval := s.time.pulseInterval.map (· + 1) } : TimeBase).advance = move :=
        moved.symm
      rw [counted, TimeBase.count_set (by exact set), advance]
      split
      · next beyond => exact ⟨rfl, fun h => absurd h (by exact Nat.not_le.mpr beyond), fun _ => ⟨rfl, rfl⟩⟩
      · next within => exact ⟨rfl, fun _ => ⟨rfl, idle⟩, fun h => absurd h within⟩
    · have view : (State.ticked s).composer.views[k] = { s.composer.views[k] with
          pageTimer := s.composer.views[k].pageTimer.tick, partTimer := s.composer.views[k].partTimer.tick } :=
        mapAll_get _ _ k
      rw [view]
      exact ⟨rfl, LatchTimer.tick_ticked _, Timer.tick_ticked _⟩
    · have link : (State.ticked s).links[k] = { s.links[k] with refresh := s.links[k].refresh.tick } :=
        mapAll_get _ _ k
      rw [link]
      exact ⟨rfl, LatchTimer.tick_ticked _⟩
    · have line : (State.ticked s).clock.lines[l] = { s.clock.lines[l] with
          spacing := s.clock.lines[l].spacing.tick } := mapAll_get _ _ l
      rw [line]
      exact ⟨rfl, LatchTimer.tick_ticked _⟩
  · obtain ⟨power, taken, -⟩ := completeSecond_frame s
    rw [exec_secondCompletion released due, Host.Outcome.next.injEq] at completed
    subst completed
    have released' : (completeSecond s).released := (congrArg Power.held power).trans released
    refine ⟨?_, taken⟩
    rw [exec_tickArrival released, exec_tickArrival released', if_pos due]
    cases unset : decide (s.time.state = .unset) with
    | true => rw [completeSecond_unset (by simpa using unset), completeSecond_unset (by simpa using unset), if_pos due]
    | false => rw [if_neg (by simp [taken (by simpa using unset)])]

/-- Settles O15: the time state's case, and in RUNNING the minute's, decide what the completion delivers. -/
theorem secondCompletionAdvancesTrueTime : Obligations.SecondCompletionAdvancesTrueTime := by
  refine ⟨fun s released due set idle => ?_, fun s stage released due set rolling => ?_, fun s released => ?_⟩
  · refine ⟨_, exec_secondCompletion released due, ?_⟩
    obtain ⟨n, q, a, completed, next, slew⟩ := s.time.completed_spec
    cases state : s.time.state with
    | unset => exact absurd state set
    | running =>
      by_cases wrap : s.time.second = 86399
      · rw [completeSecond_wrap state wrap, completed, State.post_now (by exact idle)]
        exact ⟨rfl, next, slew.1, slew.2.1, slew.2.2, fun _ => ⟨state, rfl, fun h => absurd wrap h,
          fun h => absurd wrap h, fun _ => ⟨rfl, rfl, rfl, rfl, rfl, rfl⟩⟩, nofun, rfl⟩
      · by_cases minute : (s.time.second + 1) / 60 = s.time.second / 60
        · rw [completeSecond_within state wrap minute, completed]
          exact ⟨rfl, next, slew.1, slew.2.1, slew.2.2, fun _ => ⟨state, rfl, fun _ h => absurd minute h,
            fun _ _ => rfl, fun h => absurd h wrap⟩, nofun, rfl⟩
        · rw [completeSecond_minute state wrap minute, completed, State.post_now (by exact idle)]
          exact ⟨rfl, next, slew.1, slew.2.1, slew.2.2, fun _ => ⟨state, rfl, fun _ _ => ⟨rfl, rfl, rfl, rfl⟩,
            fun _ h => absurd h minute, fun h => absurd h wrap⟩, nofun, rfl⟩
    | holding m =>
      have second : s.time.completed.second = n := by rw [completed]
      by_cases reached : n / 60 = m
      · rw [completeSecond_holding state, second, if_pos reached, completed, State.setTimeState_spec]
        refine ⟨rfl, next, slew.1, slew.2.1, slew.2.2, nofun, fun h eq => ?_, rfl⟩
        cases eq
        exact ⟨by rw [← next, if_pos reached], rfl, rfl, rfl, rfl⟩
      · rw [completeSecond_holding state, second, if_neg reached, completed]
        refine ⟨rfl, next, slew.1, slew.2.1, slew.2.2, nofun, fun h eq => ?_, rfl⟩
        cases eq
        exact ⟨by rw [← next, if_neg reached]; exact state, rfl, rfl, rfl, rfl⟩
  · refine ⟨_, exec_secondCompletion released due, ?_⟩
    obtain ⟨n, q, a, completed, next, -⟩ := s.time.completed_spec
    cases state : s.time.state with
    | unset => exact absurd state set
    | running =>
      rw [if_neg (not_not_intro rfl : ¬(TimeState.running ≠ .running))]
      by_cases wrap : s.time.second = 86399
      · rw [completeSecond_wrap state wrap, completed, State.post_waits (by exact rolling)]
        exact ⟨rfl, rfl, fun _ => state, nofun, next, by rw [if_pos wrap]⟩
      · by_cases minute : (s.time.second + 1) / 60 = s.time.second / 60
        · rw [completeSecond_within state wrap minute, completed]
          exact ⟨rfl, rfl, fun _ => state, nofun, next,
            by rw [if_neg wrap, if_neg (not_not_intro minute), List.append_nil]⟩
        · rw [completeSecond_minute state wrap minute, completed, State.post_waits (by exact rolling)]
          exact ⟨rfl, rfl, fun _ => state, nofun, next, by rw [if_neg wrap, if_pos minute]⟩
    | holding m =>
      have second : s.time.completed.second = n := by rw [completed]
      rw [if_pos (nofun : TimeState.holding m ≠ .running)]
      by_cases reached : n / 60 = m
      · rw [completeSecond_holding state, second, if_pos reached, completed, State.setTimeState_spec]
        exact ⟨rfl, rfl, nofun, fun h eq => by cases eq; exact (if_pos reached).symm, next, (List.append_nil _).symm⟩
      · rw [completeSecond_holding state, second, if_neg reached, completed]
        exact ⟨rfl, rfl, nofun, fun h eq => by cases eq; exact state.trans (if_neg reached).symm, next,
          (List.append_nil _).symm⟩
  · refine ⟨_, exec_tickArrival released, ?_⟩
    have interval : ∀ u : State, (State.ticked u).time.pulseInterval = u.time.pulseInterval.map (· + 1) := by
      intro u
      show (TimeBase.count _).pulseInterval = _
      rw [TimeBase.count_frame]
    rw [interval]
    split
    · rw [(completeSecond_frame s).2.2]
    · rfl

/-- Settles O20. -/
theorem readTimeReportsTheTime : Obligations.ReadTimeReportsTheTime := by
  intro p s commanded
  refine ⟨_, serve_reads commanded (f := fun s => s.time.bytes) (by rw [State.setService_time]), ?_⟩
  rw [refItem_number]
  cases state : s.time.state with
  | holding h =>
    simp only [TimeBase.bytes, state]
    exact ⟨rfl, rfl, fun h eq => by cases eq; rfl, fun k => absurd rfl (k h), rfl⟩
  | unset | running =>
    simp only [TimeBase.bytes, state]
    exact ⟨rfl, rfl, nofun, fun _ => rfl, rfl⟩

end

section
/-! Steps of the time (R6, R13 to R16): the forward step, the minute pulse at the reference state, and SET TIME. -/

namespace Sys2Proof.Machine

/-! ### Deliveries that only answer (R14) -/

@[simp] theorem State.events_setService (s : State) (p q : Port) (v : Service) :
    ((s.setService p v).port q).events = (s.port q).events := by
  rw [State.setService, State.port_setPort_cases]
  split
  · next h => rw [h]
  · rfl

@[simp] theorem State.enables_setService (s : State) (p q : Port) (v : Service) :
    ((s.setService p v).port q).enables = (s.port q).enables :=
  State.enables_setPort s p q _ rfl

@[simp] theorem State.events_answer (s : State) (p q : Port) (r : Reply) :
    ((s.answer p r).port q).events = (s.port q).events := by
  unfold State.answer
  split
  · exact s.events_setService p q _
  · rfl

/-- The deliveries answer SET TIMEs and do nothing else. -/
def OnlyReplies (ds : List Delivery) : Prop := ∀ d ∈ ds, ∃ c, d = .reply c

theorem deliver_replies {ds : List Delivery} (h : OnlyReplies ds) (s : State) :
    deliver ds s = { s with ports := (deliver ds s).ports, time := { s.time with outbox := [] } } ∧
      ∀ p, ((deliver ds s).port p).events = (s.port p).events := by
  induction ds generalizing s with
  | nil => exact ⟨rfl, fun p => rfl⟩
  | cons d ds ih =>
    obtain ⟨c, rfl⟩ := h d (by simp)
    obtain ⟨frame, events⟩ := ih (fun d hd => h d (by simp [hd])) (s.answer c.port ⟨.done, []⟩)
    refine ⟨?_, fun p => (events p).trans (s.events_answer _ p _)⟩
    rw [deliver, frame]
    apply State.eq_of_fields <;> simp

/-! ### The forward step (R6) -/

/-- The time set to a second, the board minute RUNNING at it unless the step falls short of a hold minute (R6). -/
def State.steppedTo (s : State) (second : Nat) : State :=
  if 0 ≤ stepDistance s.time.boardMinute (second / 60) then
    ({ s with time := s.time.setSecond second } : State).setTimeState .running
  else { s with time := s.time.setSecond second }

/-- What a forward step posts (R6, log 13). -/
def stepDeliveries (b u : Nat) (e : Event) (last : List Delivery) : List Delivery :=
  (if 0 < stepDistance b u ∧ u < b then [.rollover] else []) ++ (if 0 < stepDistance b u then [.minute u] else []) ++
    [.event e] ++ last

theorem State.steppedTo_spec (s : State) (second : Nat) :
    s.steppedTo second = { s with
      time := { s.time.setSecond second with
        state := if 0 ≤ stepDistance s.time.boardMinute (second / 60) then .running else s.time.state }
      ports := (s.steppedTo second).ports } ∧
    (∀ p, ((s.steppedTo second).port p).enables = (s.port p).enables) ∧
    (∀ p, ((s.steppedTo second).port p).service = (s.port p).service) := by
  unfold State.steppedTo
  split
  · refine ⟨State.setTimeState_spec _ _, fun p => ?_, fun p => ?_⟩
    · exact State.enables_noted _ _ p
    · exact State.service_noted _ _ p
  · exact ⟨rfl, fun p => rfl, fun p => rfl⟩

/-- A forward step ends at its second's minute, but where it falls short of a hold minute. -/
theorem State.steppedTo_boardMinute {s : State} {second : Nat}
    (h : 0 ≤ stepDistance s.time.boardMinute (second / 60)) :
    (s.steppedTo second).time.boardMinute = second / 60 := by
  rw [(s.steppedTo_spec second).1, if_pos h]
  rfl

theorem forwardStep_eq (second : Nat) (kind : StepKind) (last : List Delivery) (s : State) :
    forwardStep second kind last s = (s.steppedTo second).post (stepDeliveries s.time.boardMinute (second / 60)
      (.timeStepped kind (s.steppedTo second).time.boardMinute) last) := by
  have minute := @State.steppedTo_boardMinute s second
  unfold forwardStep stepDeliveries
  dsimp only
  rcases lt_trichotomy (stepDistance s.time.boardMinute (second / 60)) 0 with back | same | ahead
  · have stepped : s.steppedTo second = { s with time := s.time.setSecond second } := if_neg (by omega)
    rw [if_neg (by omega), if_neg (by omega), if_neg (by omega), if_neg (by omega), stepped]
    rfl
  · have nonneg : 0 ≤ stepDistance s.time.boardMinute (second / 60) := by omega
    have stepped : s.steppedTo second = ({ s with time := s.time.setSecond second } : State).setTimeState .running :=
      if_pos nonneg
    rw [if_neg (by omega), if_pos same, if_neg (by omega), if_neg (by omega), minute nonneg, stepped]
    rfl
  · have nonneg : 0 ≤ stepDistance s.time.boardMinute (second / 60) := by omega
    have stepped : s.steppedTo second = ({ s with time := s.time.setSecond second } : State).setTimeState .running :=
      if_pos nonneg
    rw [minute nonneg, stepped]
    by_cases wrap : second / 60 < s.time.boardMinute
    · rw [if_pos ahead, if_pos wrap, if_pos ⟨ahead, wrap⟩, if_pos ahead]
      rfl
    · rw [if_pos ahead, if_neg wrap, if_neg (fun h => wrap h.2), if_pos ahead]
      rfl

/-- What a minute event and an event deliver, and the replies behind them. -/
theorem deliver_event_replies {last : List Delivery} (h : OnlyReplies last) (s : State) (e : Event) :
    deliver (.event e :: last) s = { s with
      ports := (deliver (.event e :: last) s).ports, time := { s.time with outbox := [] } } ∧
    ∀ q : Ctrl, ∀ r, e.route s.settings.routing = some r → s.routes r q → (s.port q.port).enables.getLsbD e.code = true →
      e ∈ ((deliver (.event e :: last) s).port q.port).events := by
  obtain ⟨frame, events⟩ := deliver_replies h (s.raiseRouted e)
  rw [deliver]
  refine ⟨?_, fun q r route routes on => ?_⟩
  · rw [frame]
    apply State.eq_of_fields <;> simp
  · rw [events]
    exact State.mem_events_raiseRouted route routes on

/-- A forward step in the terms of the claims (R6): what follows it only answers. -/
theorem forwardStep_stepsForward {last : List Delivery} (h : OnlyReplies last) (s : State) (second : Nat)
    (kind : StepKind) : s.stepsForward (forwardStep second kind last s) second kind last := by
  rintro b u j rfl rfl distance
  replace distance : j = stepDistance s.time.boardMinute (second / 60) := distance
  obtain ⟨stepped, enables, -⟩ := s.steppedTo_spec second
  have minute := @State.steppedTo_boardMinute s second
  rw [forwardStep_eq, stepDeliveries]
  rw [← distance] at stepped minute ⊢
  generalize s.steppedTo second = u at *
  generalize u.ports = ports at stepped
  subst stepped
  have route : ∀ m, (Event.timeStepped kind m).route s.settings.routing = some s.settings.routing.timeStepped :=
    fun _ => rfl
  cases rolling : s.time.rollover with
  | some stage =>
    rw [State.post_waits (by exact rolling)]
    exact ⟨rfl, rfl, fun _ => ⟨rfl, rfl, rfl⟩, fun _ => rfl, nofun, fun _ eq => ⟨rolling.trans eq, rfl⟩⟩
  | none =>
    rw [State.post_now (by exact rolling)]
    by_cases ahead : 0 < j
    · rw [if_pos ahead]
      by_cases wrap : second / 60 < s.time.boardMinute
      · rw [if_pos ⟨ahead, wrap⟩, minute (by omega)]
        exact ⟨rfl, rfl, fun _ => ⟨rfl, rfl, rfl⟩, fun h => absurd h (by simp [ahead]),
          fun _ => ⟨fun _ le => absurd le (by omega), fun _ _ => ⟨rfl, rfl, rfl⟩, fun h => absurd h (by omega)⟩, nofun⟩
      · rw [if_neg fun k => wrap k.2]
        simp only [List.nil_append, List.cons_append]
        rw [deliver]
        obtain ⟨frame, raised⟩ := deliver_event_replies h (({ s with
          time := { s.time.setSecond second with state := if 0 ≤ j then .running else s.time.state }
          ports := ports } : State).sendMinute (second / 60)) (.timeStepped kind (second / 60))
        have within := minute (by omega)
        rw [within]
        generalize deliver _ _ = d at frame raised ⊢
        generalize d.ports = after at frame
        subst frame
        refine ⟨rfl, rfl, fun k => absurd k (by simp; omega), fun k => absurd k (by simp; omega),
          fun _ => ⟨fun _ _ => ⟨rfl, rfl, rfl, rfl⟩, fun _ k => absurd k wrap,
            fun _ => ⟨rolling, rfl, fun q routes on => ?_⟩⟩, nofun⟩
        exact within ▸ raised q _ (route _) routes (enables q.port ▸ on)
    · rw [if_neg ahead, if_neg fun k => ahead k.1]
      simp only [List.nil_append, List.cons_append]
      obtain ⟨frame, raised⟩ := deliver_event_replies h ({ s with
          time := { s.time.setSecond second with state := if 0 ≤ j then .running else s.time.state }
          ports := ports } : State) (.timeStepped kind (TimeBase.boardMinute { s.time.setSecond second with
            state := if 0 ≤ j then .running else s.time.state }))
      generalize deliver _ _ = d at frame raised ⊢
      generalize d.ports = after at frame
      subst frame
      refine ⟨rfl, rfl, fun _ => ⟨rfl, rfl, rfl⟩, fun _ => rfl,
        fun _ => ⟨fun k => absurd k ahead, fun k => absurd k ahead,
          fun _ => ⟨rolling, rfl, fun q routes on => ?_⟩⟩, nofun⟩
      exact raised q _ (route _) routes (enables q.port ▸ on)

/-! ### The minute pulse at the reference state (R8, R9) -/

theorem increment_eq (n : Counter) : increment n = if n = 0xFFFF then 0xFFFF else n + 1 := by
  unfold increment
  split
  · assumption
  · rfl

theorem exec_minutePulse_spurious {s : State} {ticks : Nat} (released : s.released)
    (running : s.time.pulseInterval = some ticks) (early : ticks < 51200) :
    exec .minutePulse s = .next { s with time := { s.time with spurious := increment s.time.spurious } } := by
  have spurious : s.time.acceptsPulse = false := by
    rw [TimeBase.acceptsPulse, running]
    exact decide_eq_false (by omega)
  show execMinutePulse s = _
  rw [execMinutePulse, whenReleased_released released, spurious, if_neg nofun]

/-- In UNSET an accepted pulse acts on the reference state alone (R8, R9). -/
theorem exec_minutePulse_unset {s : State} (released : s.released) (unset : s.time.state = .unset)
    (due : s.time.pulseInterval = none ∨ ∃ ticks, s.time.pulseInterval = some ticks ∧ 51200 ≤ ticks) :
    exec .minutePulse s = .next s.pulseAccepted := by
  have state : s.pulseAccepted.time.state = .unset := by rw [State.pulseAccepted_time]; exact unset
  show execMinutePulse s = _
  rw [execMinutePulse, whenReleased_released released, if_pos (TimeBase.acceptsPulse_of_interval due)]
  dsimp only
  split
  · rfl
  · next running => exact absurd (state.symm.trans running) nofun
  · next holding => exact absurd (state.symm.trans holding) nofun

/-- The accepted pulse, its new time written out. -/
theorem State.pulseAccepted_eq (s : State) : s.pulseAccepted = { s with
    ports := s.pulseAccepted.ports
    time := { s.time with
      ref := .locked, pulseInterval := some 0
      accepted := if s.time.accepted = 0xFFFF then 0xFFFF else s.time.accepted + 1 } } := by
  conv_lhs => rw [s.pulseAccepted_spec, s.pulseAccepted_time]

theorem exec_pulseIntervalExpiry {s : State} (released : s.released) :
    exec .pulseIntervalExpiry s = .next (
      if s.time.ref = .locked ∧ s.time.pulseInterval.any (fun ticks => decide (184320 ≤ ticks)) then
        (s.setRef .lost).raiseRouted .timeRefLost
      else s) :=
  whenReleased_released released _

/-- A capture in the second half of the minute whose error exceeds the limit steps forward (R13). -/
theorem discipline_forward {s : State} (late : 30720 ≤ s.time.capture) (below : s.time.capture < 61440)
    (beyond : s.settings.stepLimit * 1024 < 61440 - s.time.capture) :
    discipline s = forwardStep ((s.time.second + 60 - s.time.second % 60) % 86400) .pulseStep [] s := by
  have error : pulseError s.time.capture = (s.time.capture : Int) - 61440 := if_neg (by omega)
  rw [discipline, error, if_neg (by omega), if_neg (by omega)]

/-! ### SET TIME (R14 to R16) -/

theorem State.setService_frame (s : State) (p : Port) (v : Service) :
    s.setService p v = { s with ports := (s.setService p v).ports } := by
  cases p <;> rfl

theorem State.setService_withTime (s : State) (p : Port) (v : Service) (t : TimeBase) :
    ({ s with time := t } : State).setService p v = { s.setService p v with time := t } := by
  cases p <;> rfl

/-- A command past its checks, SET TIME's served. -/
theorem exec_setTime {s : State} {c : Ctrl} {payload : List Byte} (h : s.commanded c.port codeSetTime payload)
    (holds : s.arbiter.holder = some c) (length : payload.length = 3) (range : u24At payload 0 ≤ 86399) :
    exec (.setTime c) s = .next ((setTimeServed c (u24At payload 0)
      (s.setService c.port (.serving codeSetTime payload .taken))).finish c.port) :=
  serve_authorised h holds _ (if_pos ⟨length, range⟩) _

/-- An event and the DONE behind it leave the command of the port replied. -/
theorem deliver_event_reply_service {s : State} {c : Ctrl} {code : Byte} {payload : List Byte}
    (taken : (s.port c.port).service = .serving code payload .taken) (e : Event) :
    ((deliver [.event e, .reply c] s).port c.port).service = .serving code payload (.replied ⟨.done, []⟩) := by
  have kept : ((s.raiseRouted e).port c.port).service = .serving code payload .taken :=
    (s.service_raiseRouted c.port e).trans taken
  have answered : deliver [.event e, .reply c] s =
      { (s.raiseRouted e).answered c.port code payload ⟨.done, []⟩ with
        time := { ((s.raiseRouted e).answer c.port ⟨.done, []⟩).time with outbox := [] } } := by
    rw [← State.answer_taken kept]
    rfl
  rw [answered]
  exact State.answered_service _ _ _ _ _

/-- Where the step's DONE is delivered with it the command is replied, and behind a rollover it is still in service. -/
theorem forwardStep_service {s : State} {c : Ctrl} {code : Byte} {payload : List Byte}
    (taken : (s.port c.port).service = .serving code payload .taken) (second : Nat) (kind : StepKind) :
    ((forwardStep second kind [.reply c] s).time.rollover = none →
      ((forwardStep second kind [.reply c] s).port c.port).service = .serving code payload (.replied ⟨.done, []⟩)) ∧
    ((forwardStep second kind [.reply c] s).time.rollover ≠ none →
      ((forwardStep second kind [.reply c] s).port c.port).service = .serving code payload .taken) := by
  obtain ⟨stepped, -, service⟩ := s.steppedTo_spec second
  replace service := (service c.port).trans taken
  have standing : (s.steppedTo second).time.rollover = s.time.rollover := by rw [stepped]; rfl
  rw [forwardStep_eq, stepDeliveries]
  generalize Event.timeStepped kind (s.steppedTo second).time.boardMinute = e
  generalize s.steppedTo second = u at *
  cases rolling : s.time.rollover with
  | some stage =>
    rw [State.post_waits (standing.trans rolling)]
    exact ⟨fun h => absurd ((standing.trans rolling).symm.trans h) nofun, fun _ => service⟩
  | none =>
    rw [State.post_now (standing.trans rolling)]
    have replied (v : State) (kept : (v.port c.port).service = .serving code payload .taken)
        (idle : v.time.rollover = none) :
        ((deliver [.event e, .reply c] v).time.rollover = none →
          ((deliver [.event e, .reply c] v).port c.port).service = .serving code payload (.replied ⟨.done, []⟩)) ∧
        ((deliver [.event e, .reply c] v).time.rollover ≠ none →
          ((deliver [.event e, .reply c] v).port c.port).service = .serving code payload .taken) := by
      have frame := (deliver_event_replies (last := [.reply c]) (by simp [OnlyReplies]) v e).1
      refine ⟨fun _ => deliver_event_reply_service kept e, fun h => absurd ?_ h⟩
      rw [frame]
      exact idle
    by_cases ahead : 0 < stepDistance s.time.boardMinute (second / 60)
    · by_cases wrap : second / 60 < s.time.boardMinute
      · rw [if_pos ⟨ahead, wrap⟩, if_pos ahead]
        exact ⟨nofun, fun _ => service⟩
      · rw [if_neg fun k => wrap k.2, if_pos ahead]
        exact replied (u.sendMinute (second / 60)) service (standing.trans rolling)
    · rw [if_neg fun k => ahead k.1, if_neg ahead]
      exact replied u service (standing.trans rolling)

/-- A command taken into service leaves a forward step what it was. -/
theorem State.stepsForward_taken {s t : State} {p : Port} {v : Service} {second : Nat} {kind : StepKind}
    {last : List Delivery} (h : (s.setService p v).stepsForward t second kind last) :
    s.stepsForward t second kind last := by
  have enables := fun q => s.enables_setService p q v
  have frame := s.setService_frame p v
  generalize s.setService p v = u at h frame enables
  generalize u.ports = ports at frame
  subst frame
  intro b u j minute target distance
  obtain ⟨time, whole, still, table, idle, rolling⟩ := h b u j minute target distance
  refine ⟨time, whole, still, table, fun none => ?_, rolling⟩
  obtain ⟨ahead, wrap, ends⟩ := idle none
  refine ⟨ahead, wrap, fun k => ?_⟩
  obtain ⟨rollover, outbox, raised⟩ := ends k
  exact ⟨rollover, outbox, fun q routes on => raised q routes (enables q.port ▸ on)⟩

theorem State.answer_withTime (s : State) (p : Port) (r : Reply) (t : TimeBase) :
    ({ s with time := t } : State).answer p r = { s.answer p r with time := t } := by
  unfold State.answer
  rw [show ({ s with time := t } : State).port p = s.port p by cases p <;> rfl]
  split
  · exact s.setService_withTime p _ t
  · rfl

/-- A change of the time state leaves each port's enables and service (R182). -/
theorem State.setTimeState_kept (s : State) (v : TimeState) (p : Port) :
    ((s.setTimeState v).port p).enables = (s.port p).enables ∧
      ((s.setTimeState v).port p).service = (s.port p).service :=
  ⟨s.enables_noted _ p, s.service_noted _ p⟩

/-- SET TIME of a time that runs, behind the step's direction. -/
theorem setTimeServed_set {s : State} (set : s.time.state ≠ .unset) (c : Ctrl) (tod : Nat) :
    setTimeServed c tod s =
      if circularDifference (targetSecond s.settings.dayStart tod) s.time.second ≥ 0 then
        (forwardStep (targetSecond s.settings.dayStart tod) .forward [.reply c] s, none)
      else backwardCorrection c (targetSecond s.settings.dayStart tod)
        (circularDifference (targetSecond s.settings.dayStart tod) s.time.second) s := by
  unfold setTimeServed
  split
  · next unset => exact absurd unset set
  · rfl
  · rfl

theorem setTimeServed_unset {s : State} (unset : s.time.state = .unset) (c : Ctrl) (tod : Nat) :
    setTimeServed c tod s =
      ((({ s with time := s.time.setSecond (targetSecond s.settings.dayStart tod) } : State).setTimeState .running).post
        [.minute (targetSecond s.settings.dayStart tod / 60),
          .event (.timeStepped .forward (targetSecond s.settings.dayStart tod / 60)), .reply c], none) := by
  rw [setTimeServed, unset]

end Sys2Proof.Machine
end

section
open Sys2Proof Sys2Proof.Machine

/-- Settles O18, clause by clause: the pulse is spurious, or accepted in UNSET, or disciplines the count by a step. -/
theorem pulsesMoveTheReferenceState : Obligations.PulsesMoveTheReferenceState := by
  refine ⟨?_, ?_, ?_, ?_, ?_, ?_⟩
  · intro s ticks released running early
    rw [exec_minutePulse_spurious released running early, increment_eq]
  · intro s released unset ref due h0 h1
    rw [exec_minutePulse_unset released unset due, State.pulseAccepted,
      lockReference_unwatched (s := s.pulseCounted) ref h0 h1, ← increment_eq]
    rfl
  · intro s ticks released running long
    rw [exec_pulseIntervalExpiry released, running]
    refine ⟨fun locked h0 h1 => ?_, fun ref => ?_⟩
    · rw [if_pos ⟨locked, decide_eq_true long⟩, State.setRef]
      exact congrArg (fun t : State => Host.Outcome.next (t.raiseRouted .timeRefLost)) (State.noted_unwatched _ _ h0 h1)
    · rw [if_neg fun h => ref h.1]
  · intro s c released set rollover due capture early beyond
    obtain ⟨stage, rolling⟩ := Option.ne_none_iff_exists'.mp rollover
    subst capture
    refine ⟨_, exec_minutePulse_accepted released set due, ?_⟩
    rw [discipline_back (by rw [State.pulseAccepted_capture]; exact early)
      (by rw [State.pulseAccepted_capture, State.pulseAccepted_settings]; exact beyond),
      State.post_waits (by exact s.pulseAccepted_rollover.trans rolling), State.pulseAccepted_boardMinute]
    refine ⟨?_, State.pulseAccepted_ports_locked, State.pulseAccepted_ports_unwatched⟩
    rw [State.steppedBack, State.pulseAccepted_eq]
    rfl
  · intro s released unset locked due
    rw [exec_minutePulse_unset released unset due, State.pulseAccepted_eq, State.pulseAccepted_ports_locked locked,
      ← locked]
  · intro s c released set due capture late below beyond
    subst capture
    refine ⟨s.pulseAccepted, _, exec_minutePulse_accepted released set due, s.pulseAccepted_eq,
      State.pulseAccepted_ports_locked, State.pulseAccepted_ports_unwatched, ?_⟩
    rw [discipline_forward (by rw [State.pulseAccepted_capture]; exact late)
      (by rw [State.pulseAccepted_capture]; exact below)
      (by rw [State.pulseAccepted_capture, State.pulseAccepted_settings]; exact beyond), State.pulseAccepted_second]
    exact forwardStep_stepsForward (fun _ h => absurd h List.not_mem_nil) _ _ _

/-- Settles O19: SET TIME in UNSET, forward, and backward in its cases, each with and without a rollover. -/
theorem setTimeStartsOrHoldsTheTime : Obligations.SetTimeStartsOrHoldsTheTime := by
  refine ⟨?_, ?_⟩
  · intro c payload s h holds length range unset idle target eq
    obtain rfl : target = targetSecond s.settings.dayStart (u24At payload 0) := eq
    rw [exec_setTime h holds length range]
    have taken := s.setService_service c.port (.serving codeSetTime payload .taken)
    have enables := fun q => s.enables_setService c.port q (.serving codeSetTime payload .taken)
    have frame := s.setService_frame c.port (.serving codeSetTime payload .taken)
    generalize s.setService c.port (.serving codeSetTime payload .taken) = u at *
    generalize u.ports = ports at frame
    subst frame
    rw [setTimeServed_unset (by exact unset)]
    generalize targetSecond _ _ = target
    have kept := ({ s with ports := ports, time := s.time.setSecond target } : State).setTimeState_kept .running
    have running := ({ s with ports := ports, time := s.time.setSecond target } : State).setTimeState_spec .running
    dsimp only
    generalize State.setTimeState _ _ = v at kept running ⊢
    generalize v.ports = after at running
    subst running
    obtain ⟨delivered, raised⟩ := deliver_event_replies (last := [.reply c]) (by simp [OnlyReplies])
      (State.sendMinute { s with ports := after, time := { s.time.setSecond target with state := .running } }
        (target / 60)) (.timeStepped .forward (target / 60))
    have replied := deliver_event_reply_service (c := c) (s := State.sendMinute
      { s with ports := after, time := { s.time.setSecond target with state := .running } } (target / 60))
      ((kept c.port).2.trans taken) (.timeStepped .forward (target / 60))
    refine ⟨_, rfl, ?_⟩
    rw [Served.finish, State.post_now (by exact idle), deliver]
    generalize deliver _ _ = t at delivered raised replied ⊢
    generalize t.ports = last at delivered
    subst delivered
    refine ⟨congrArg (fun r => { s.time with
        state := .running, second := target, tick := 0, slew := 0, adjustment := .normal, secondTicks := 0
        completionDue := false, rollover := r, outbox := [] }) idle, rfl, rfl, rfl, rfl, replied,
      fun q routes on => ?_, rfl⟩
    exact raised q _ rfl routes (((kept q.port).1.trans (enables q.port)) ▸ on)
  · intro c payload s h holds length range set target d eq distance
    obtain rfl : target = targetSecond s.settings.dayStart (u24At payload 0) := eq
    obtain rfl : d = circularDifference (targetSecond s.settings.dayStart (u24At payload 0)) s.time.second := distance
    rw [exec_setTime h holds length range, setTimeServed_set (by simpa using set), State.setService_time,
      State.setService_settings]
    have taken := s.setService_service c.port (.serving codeSetTime payload .taken)
    have enables := fun q => s.enables_setService c.port q (.serving codeSetTime payload .taken)
    have frame := s.setService_frame c.port (.serving codeSetTime payload .taken)
    have answer := s.answer_setService_taken c.port codeSetTime payload
    have forward := @State.stepsForward_taken s
      (forwardStep (targetSecond s.settings.dayStart (u24At payload 0)) .forward [.reply c]
        (s.setService c.port (.serving codeSetTime payload .taken))) c.port (.serving codeSetTime payload .taken)
      _ _ _ (forwardStep_stepsForward (by simp [OnlyReplies]) _ _ _)
    generalize s.setService c.port (.serving codeSetTime payload .taken) = u at *
    generalize u.ports = ports at frame
    subst frame
    generalize targetSecond _ _ = target at *
    generalize circularDifference _ _ = d at *
    have kept := ({ s with ports := ports, time := s.time.setSecond target } : State).setTimeState_kept
      (.holding s.time.boardMinute)
    have held := ({ s with ports := ports, time := s.time.setSecond target } : State).setTimeState_spec
      (.holding s.time.boardMinute)
    refine ⟨fun ahead => ?_, fun far => ?_, fun near back same idle => ?_, fun near back same rolling => ?_,
      fun near back other long => ?_, fun near back other short idle => ?_, fun near back other short rolling => ?_⟩
    · rw [if_pos ahead]
      exact ⟨_, rfl, forward, forwardStep_service taken _ _⟩
    · rw [if_neg (by omega), backwardCorrection, if_pos far]
      exact congrArg _ (answer _)
    · rw [if_neg (by omega), backwardCorrection, if_neg (by omega), if_pos (by exact same), 
        State.post_now (by exact idle)]
      have replied : deliver [.reply c] ({ s with ports := ports, time := s.time.setSecond target } : State) =
          { s.answered c.port codeSetTime payload ⟨.done, []⟩ with
            time := { s.time.setSecond target with outbox := [] } } := by
        rw [deliver, deliver, State.answer_withTime { s with ports := ports }, answer]
      refine ⟨_, rfl, ?_⟩
      rw [Served.finish, replied]
      exact ⟨congrArg (fun r => { s.time with
        second := target, tick := 0, slew := 0, adjustment := .normal, secondTicks := 0, completionDue := false
        rollover := r, outbox := [] }) idle, rfl⟩
    · obtain ⟨stage, rolling⟩ := Option.ne_none_iff_exists'.mp rolling
      rw [if_neg (by omega), backwardCorrection, if_neg (by omega), if_pos (by exact same), State.post_waits (by exact rolling)]
      rfl
    · rw [if_neg (by omega), backwardCorrection, if_neg (by omega), if_neg (by exact other), if_pos (by exact long)]
      exact congrArg _ (answer _)
    · rw [if_neg (by omega), backwardCorrection, if_neg (by omega), if_neg (by exact other), if_neg (by exact not_lt.mpr short), 
        State.post_now (by rw [State.setTimeState_spec]; exact idle)]
      generalize State.setTimeState _ _ = v at held kept ⊢
      generalize v.ports = after at held
      subst held
      obtain ⟨delivered, raised⟩ := deliver_event_replies (last := [.reply c]) (by simp [OnlyReplies])
        { s with ports := after, time := { s.time.setSecond target with state := .holding s.time.boardMinute } }
        (.timeStepped .hold s.time.boardMinute)
      have replied := deliver_event_reply_service (c := c)
        (s := { s with
          ports := after, time := { s.time.setSecond target with state := .holding s.time.boardMinute } })
        ((kept c.port).2.trans taken) (.timeStepped .hold s.time.boardMinute)
      refine ⟨_, rfl, ?_⟩
      rw [Served.finish]
      generalize deliver _ _ = t at delivered raised replied ⊢
      generalize t.ports = last at delivered
      subst delivered
      refine ⟨rfl, congrArg (fun r => { s.time with
          state := .holding s.time.boardMinute, second := target, tick := 0, slew := 0, adjustment := .normal
          secondTicks := 0, completionDue := false, rollover := r, outbox := [] }) idle, replied,
        fun q routes on => raised q _ rfl routes (((kept q.port).1.trans (enables q.port)) ▸ on)⟩
    · obtain ⟨stage, rolling⟩ := Option.ne_none_iff_exists'.mp rolling
      rw [if_neg (by omega), backwardCorrection, if_neg (by omega), if_neg (by exact other), if_neg (by exact not_lt.mpr short),
        State.post_waits (by rw [State.setTimeState_spec]; exact rolling)]
      generalize State.setTimeState _ _ = v at held kept ⊢
      generalize v.ports = after at held
      subst held
      exact ⟨_, rfl, rfl, rfl, (kept c.port).2.trans taken⟩

end

section
/-! The Text Store (chapter 5) and the configuration's commits (R187): staging, row commits, and reading a row. -/

namespace Sys2Proof.Machine

/-! ### Commands answered at once -/

/-- A block that answers at once, and works on the state as if the service of the port were not there. -/
theorem serve_answers {s t : State} {p : Port} {code : Byte} {payload : List Byte} {r : Reply}
    (h : s.commanded p code payload) {f : List Byte → State → Served}
    (served : f payload (s.setService p (.serving code payload .taken)) =
      (t.setService p (.serving code payload .taken), some r)) :
    serve p code f s = .next (t.answered p code payload r) := by
  rw [serve_commanded h, served, Served.finish, State.answer_setService_taken]

theorem serve_authorised_answers {α : Type} {s t : State} {c : Ctrl} {code : Byte} {payload : List Byte} {x : α}
    {r : Reply} (h : s.commanded c.port code payload) (holds : s.arbiter.holder = some c)
    {parse : List Byte → Option α} (reads : parse payload = some x) {f : α → State → Served}
    (served : f x (s.setService c.port (.serving code payload .taken)) =
      (t.setService c.port (.serving code payload .taken), some r)) :
    serve c.port code (authorised c (parsed parse f)) s = .next (t.answered c.port code payload r) := by
  rw [serve_authorised h holds parse reads, served, Served.finish, State.answer_setService_taken]

theorem serve_authorised_answers_withoutPayload {s t : State} {c : Ctrl} {code : Byte} {r : Reply}
    (h : s.commanded c.port code []) (holds : s.arbiter.holder = some c) {f : State → Served}
    (served : f (s.setService c.port (.serving code [] .taken)) =
      (t.setService c.port (.serving code [] .taken), some r)) :
    serve c.port code (authorised c (withoutPayload f)) s = .next (t.answered c.port code [] r) := by
  rw [serve_authorised_withoutPayload h holds, served, Served.finish, State.answer_setService_taken]

theorem State.setService_withStore (s : State) (p : Port) (v : Service) (x : TextStore) :
    ({ s.setService p v with store := x } : State) = ({ s with store := x } : State).setService p v := by
  cases p <;> rfl

/-! ### Staging (R88, R89) -/

/-- A code stored in cell k: that cell alone, and the column behind it. -/
theorem Staging.store_spec (b : Staging) (k : Fin 16) (x : Byte) :
    (b.store k x).cells[k] = x ∧ (b.store k x).loaded[k] = true ∧
    (∀ j : Fin 16, j ≠ k → (b.store k x).cells[j] = b.cells[j] ∧ (b.store k x).loaded[j] = b.loaded[j]) ∧
    (∀ h : k.val + 1 < 16, (b.store k x).column = .cell ⟨k.val + 1, h⟩) ∧ (k = 15 → (b.store k x).column = .atEnd) ∧
    (b.store k x).row = b.row := by
  refine ⟨put_self _ _ _, put_self _ _ _, fun j other => ?_, fun h => dif_pos h, fun last => ?_, rfl⟩
  · exact ⟨(put_get _ _ _ _).trans (if_neg other), (put_get _ _ _ _).trans (if_neg other)⟩
  · subst last
    rfl

theorem nextRow_val (r : Fin 512) : (nextRow r).val = (r.val + 1) % 512 := by
  unfold nextRow
  split
  · next h => exact (Nat.mod_eq_of_lt h).symm
  · next h =>
    have last : r.val + 1 = 512 := by omega
    rw [last]
    rfl

/-- At END a code goes to cell 0, of the next row where the option says so (R89). -/
theorem Staging.load_atEnd {b : Staging} (h : b.column = .atEnd) (advance : Bool) (x : Byte) :
    b.load advance x = ({ b with row := if advance then nextRow b.row else b.row } : Staging).store 0 x := by
  rw [Staging.load, h]

theorem Staging.load_cell {b : Staging} {k : Fin 16} (h : b.column = .cell k) (advance : Bool) (x : Byte) :
    b.load advance x = b.store k x := by
  rw [Staging.load, h]

/-! ### Row commits (R92, R93) -/

theorem Staging.content_length (b : Staging) (t : TextStore) : (b.content t).length = 16 := by
  simp [Staging.content]

theorem Staging.content_getElem? (b : Staging) (t : TextStore) (k : Fin 16) :
    (b.content t)[k.val]? = some (if b.loaded[k] = true then b.cells[k] else t.visible (b.row.val * 16 + k.val)) := by
  simp [Staging.content]

theorem Staging.all_unloaded_iff (b : Staging) :
    (b.loaded.toList.all fun x => !x) = true ↔ ∀ k : Fin 16, b.loaded[k] = false := by
  simp [Fin.forall_iff]

/-- The state with the engine BUSY with the sender's row (R92, R93). -/
def State.rowTaken (s : State) (c : Ctrl) : State :=
  { s with store := { s.store with engine := some ⟨.row (s.staging c).row ((s.staging c).content s.store), c⟩ } }

/-- COMMIT ROW of the command in service, in terms of the state it was taken from (R92). -/
theorem commitRowServed_eq (c : Ctrl) (s : State) (p : Port) (v : Service) :
    commitRowServed c (s.setService p v) =
      if s.store.engine.isSome then (s.setService p v, some ⟨.busy, []⟩)
      else if s.rowProtected (s.staging c).row.val then (s.setService p v, some ⟨.isProtected, []⟩)
      else if (s.staging c).loaded.toList.all (fun x => !x) then (s.setService p v, some ⟨.badArgument, []⟩)
      else (((s.rowTaken c).emptyStaging c).setService p v, some ⟨.accepted, be16 (s.staging c).row.val⟩) := by
  cases c <;> cases p <;> rfl

theorem TextStore.mem_replaceRow_failing (t : TextStore) (r x : Nat) (cells : List Byte) :
    x ∈ (t.replaceRow r cells).failing ↔ x ∈ t.failing ∧ x ≠ r := by
  simp [TextStore.replaceRow]

/-- A cell of the row replaced reads its new code (R93). -/
theorem TextStore.visible_replaceRow_same {t : TextStore} (h : Memory.wf t.cells = true) {cells : List Byte}
    (length : cells.length = 16) (r : Nat) {k : Nat} (hk : k < 16) :
    cells[k]? = some ((t.replaceRow r cells).visible (r * 16 + k)) := by
  have valid : (t.replaceRow r cells).failing.contains ((r * 16 + k) / 16) = false := by
    have row : (r * 16 + k) / 16 = r := by omega
    simp [row, TextStore.mem_replaceRow_failing]
  rw [TextStore.visible, valid, if_neg nofun, TextStore.replaceRow,
    readCell_writeCells_inside cells t.cells h (r * 16) k (by omega), List.getElem?_eq_getElem]

/-- Every cell of another row reads as before (R93). -/
theorem TextStore.visible_replaceRow_other {t : TextStore} {cells : List Byte} (length : cells.length = 16) (r : Nat)
    {a : Nat} (h : a / 16 ≠ r) : (t.replaceRow r cells).visible a = t.visible a := by
  have standing : (t.replaceRow r cells).failing.contains (a / 16) = t.failing.contains (a / 16) := by
    simp [TextStore.mem_replaceRow_failing, h]
  rw [TextStore.visible, standing, TextStore.visible, TextStore.replaceRow,
    readCell_writeCells_outside cells t.cells (r * 16) a (by omega)]

/-! ### Reading a row (R96) -/

theorem TextStore.rowCells_failing {t : TextStore} {r : Nat} (h : r ∈ t.failing) :
    t.rowCells r = List.replicate 16 0x20 := by
  have blank (k : Nat) (hk : k < 16) : t.visible (r * 16 + k) = 0x20 := by
    have row : (r * 16 + k) / 16 = r := by omega
    simp [TextStore.visible, row, h]
  rw [TextStore.rowCells, List.map_congr_left fun k hk => blank k (List.mem_range.mp hk)]
  rfl

theorem TextStore.rowCells_valid {t : TextStore} {r : Nat} (h : r ∉ t.failing) :
    t.rowCells r = (List.range 16).map fun k => readCell t.cells (r * 16 + k) := by
  refine List.map_congr_left fun k hk => ?_
  have row : (r * 16 + k) / 16 = r := by have := List.mem_range.mp hk; omega
  simp [TextStore.visible, row, h]

theorem TextStore.rowCells_length (t : TextStore) (r : Nat) : (t.rowCells r).length = 16 := by
  simp [TextStore.rowCells]

theorem TextStore.committing_iff (t : TextStore) (row : Fin 512) :
    t.committing row.val = true ↔ ∃ cells c, t.engine = some ⟨.row row cells, c⟩ := by
  unfold TextStore.committing
  split
  · next r cells c e =>
    rw [e, beq_iff_eq]
    constructor
    · intro same
      obtain rfl := Fin.ext same
      exact ⟨cells, c, rfl⟩
    · rintro ⟨_, _, h⟩
      cases h
      rfl
  · next other => exact ⟨nofun, fun ⟨cells, c, e⟩ => absurd e (other _ _ _)⟩

end Sys2Proof.Machine
end

section
open Sys2Proof Sys2Proof.Machine

/-- Settles O36: the address and the loaded codes go to the sender's buffer, and each code to the cell at its column. -/
theorem loadTextFillsTheBuffer : Obligations.LoadTextFillsTheBuffer := by
  refine ⟨fun c payload row col s h holds reads => ?_, fun c payload advance codes s h holds reads => ?_,
    fun advance b x k at_k => ?_⟩
  · refine serve_authorised_answers h holds reads ?_
    rw [addressServed, State.staging_setService, State.setStaging_setService]
    rfl
  · refine ⟨_, rfl, serve_authorised_answers h holds reads ?_⟩
    rw [loadServed, State.staging_setService, State.setStaging_setService]
    generalize codes.foldl _ _ = b
    cases b.column <;> rfl
  · refine ⟨_, rfl, ?_⟩
    obtain at_k | ⟨at_end, rfl⟩ := at_k
    · obtain ⟨code, mark, others, next, last, row⟩ := b.store_spec k x
      rw [Staging.load_cell at_k]
      exact ⟨code, mark, others, next, last, fun _ => row, fun e => absurd (at_k.symm.trans e) nofun,
        fun e => absurd (at_k.symm.trans e) nofun⟩
    · obtain ⟨code, mark, others, next, last, row⟩ :=
        ({ b with row := if advance then nextRow b.row else b.row } : Staging).store_spec 0 x
      rw [Staging.load_atEnd at_end]
      refine ⟨code, mark, others, next, last, fun e => absurd (at_end.symm.trans e) nofun, fun _ no => ?_,
        fun _ yes => ?_⟩
      · rw [row, no]
        rfl
      · rw [row, yes, if_pos rfl, nextRow_val]

/-- Settles O37: the refusals in their order, and else the engine takes what the loaded cells and the row give. -/
theorem commitRowTakesTheStagedCells : Obligations.CommitRowTakesTheStagedCells := by
  intro c s h holds
  have protects : s.rowProtected (s.staging c).row.val = true ↔
      s.ident.straps.prot = true ∧ (s.staging c).row.val ≤ 63 := by
    simp [State.rowProtected, State.protection]
  refine ⟨fun busy => ?_, fun idle => ⟨fun prot low => ?_, fun free => ⟨fun unloaded => ?_, fun loaded => ?_⟩⟩⟩
  · refine serve_authorised_answers_withoutPayload h holds ?_
    rw [commitRowServed_eq, if_pos (Option.ne_none_iff_isSome.mp busy)]
  · refine serve_authorised_answers_withoutPayload h holds ?_
    rw [commitRowServed_eq, if_neg (by simp [idle]), if_pos (protects.mpr ⟨prot, low⟩)]
  · refine serve_authorised_answers_withoutPayload h holds ?_
    rw [commitRowServed_eq, if_neg (by simp [idle]), if_neg (free ∘ protects.mp),
      if_pos ((Staging.all_unloaded_iff _).mpr unloaded)]
  · have some_loaded : ¬((s.staging c).loaded.toList.all fun x => !x) = true := by
      rw [Staging.all_unloaded_iff]
      obtain ⟨k, mark⟩ := loaded
      exact fun none => absurd (mark.symm.trans (none k)) nofun
    obtain ⟨row, column, cells, other, frame⟩ := (s.rowTaken c).emptyStaging_spec c
    have buffer (d : Ctrl) : (s.rowTaken c).staging d = s.staging d := by cases d <;> rfl
    refine ⟨(s.rowTaken c).emptyStaging c, (s.staging c).content s.store, serve_authorised_answers_withoutPayload h holds ?_,
      congrArg (·.store.engine) frame, Staging.content_length _ _, Staging.content_getElem? _ _, cells,
      row.trans (by rw [buffer]), column.trans (by rw [buffer]), other.trans (buffer _),
      congrArg (·.store.cells) frame, congrArg (·.store.failing) frame, frame.trans ?_⟩
    · rw [commitRowServed_eq, if_neg (by simp [idle]), if_neg (free ∘ protects.mp), if_neg some_loaded]
      rfl
    · conv_rhs => rw [frame]
      rfl

/-- Settles O38: the completion's two states, and what the rows read after a row is replaced. -/
theorem rowCommitCompletionWritesTheRow : Obligations.RowCommitCompletionWritesTheRow := by
  intro row cells issuer s operates engine
  refine ⟨?_, fun length canonical => ⟨{ s with store := { s.store.replaceRow row.val cells with engine := none } },
    ?_, rfl, fun k hk => TextStore.visible_replaceRow_same canonical length _ hk,
    fun a other => TextStore.visible_replaceRow_other length _ other, ?_, fun r other => ?_⟩⟩
  · show execRowCommitCompletion false s = _
    rw [execRowCommitCompletion, whenOperating_operating operates, engine]
    rfl
  · show execRowCommitCompletion true s = _
    rw [execRowCommitCompletion, whenOperating_operating operates, engine]
    rfl
  · exact fun k => ((TextStore.mem_replaceRow_failing _ _ _ cells).mp k).2 rfl
  · exact (TextStore.mem_replaceRow_failing _ _ _ cells).trans (and_iff_left other)

/-- Settles O39: the 20 bytes as `textRowBytes` has them. -/
theorem readTextRowReportsTheRow : Obligations.ReadTextRowReportsTheRow := by
  intro p payload row s h reads
  have length := s.store.rowCells_length row.val
  have served : (parsed parseRow fun r s => done s (textRowBytes r s)) payload
      (s.setService p (.serving codeReadTextRow payload .taken)) =
      (s.setService p (.serving codeReadTextRow payload .taken), some ⟨.done, textRowBytes row s⟩) := by
    rw [parsed, reads]
    simp [done, textRowBytes, State.rowProtected, State.protection]
  refine ⟨textRowBytes row s, serve_answers h served, ?_, rfl, fun failing => ?_, fun valid => ?_,
    if s.store.committing row.val then 2 else 0, ?_, fun busy => ?_, fun idle => ?_⟩
  · simp [textRowBytes, be16, length]
  · rw [textRowBytes, TextStore.rowCells_failing failing]
    simp [be16, flag, failing]
  · rw [textRowBytes, ← TextStore.rowCells_valid valid]
    simp [be16, flag, valid, List.take_append, length]
  · simp [textRowBytes, be16, List.drop_append, length, textRowBytes.packFlags2, State.rowProtected, State.protection]
  · rw [if_pos ((TextStore.committing_iff _ _).mpr busy)]
  · rw [if_neg fun k => ?_]
    obtain ⟨cells, c, e⟩ := (TextStore.committing_iff _ _).mp k
    exact idle cells c e

/-- Settles O55: COMMIT CONFIG takes the active values, and its completion replaces the block or keeps it. -/
theorem configurationCommitReplacesTheStoredBlock : Obligations.ConfigurationCommitReplacesTheStoredBlock := by
  refine ⟨fun c s h holds => ⟨fun busy => ?_, fun idle => ?_⟩, fun items issuer s operates engine => ⟨?_, ?_⟩⟩
  · refine serve_authorised_answers_withoutPayload h holds ?_
    rw [commitConfigServed, State.setService_store, if_pos (Option.ne_none_iff_isSome.mp busy)]
    rfl
  · refine serve_authorised_answers_withoutPayload h holds ?_
    rw [commitConfigServed, State.setService_store, if_neg (by simp [idle]), State.setService_withStore,
      State.setService_settings]
  · show execConfigCommitCompletion true s = _
    rw [execConfigCommitCompletion, whenOperating_operating operates, engine]
    rfl
  · show execConfigCommitCompletion false s = _
    rw [execConfigCommitCompletion, whenOperating_operating operates, engine]
    rfl

end

section
/-! The Update Authority Arbiter (chapter 4): claims, grants, seizures, releases and the two timers. -/

namespace Sys2Proof.Machine

/-! ### Entries that stay in a set (R177) -/

/-- An entry stays in the set while events of other kinds are raised. -/
theorem State.mem_events_raise_of_ne {s : State} {p q : Port} {x e : Event} (kind : x.code ≠ e.code)
    (h : x ∈ (s.port q).events) : x ∈ ((s.raise p e).port q).events := by
  rw [State.port_raise]
  split
  · next same => exact (PortState.enter_spec _ e).2.1 x (same ▸ h) kind
  · exact h

theorem State.mem_events_offerTo {s : State} {c : Ctrl} {before : List Byte} {q : Port} {x : Event}
    (kind : x.code ≠ 17) (h : x ∈ (s.port q).events) : x ∈ ((State.offerTo c before s).port q).events := by
  unfold State.offerTo
  split
  · exact h
  · split
    · refine State.mem_events_raise_of_ne kind ?_
      rw [State.port_setPort_cases]
      split
      · next same => exact same ▸ h
      · exact h
    · exact h

/-- An entry that is no WATCH_FIRED stays in the set while a watch fires (R181). -/
theorem State.mem_events_noted {old s : State} {q : Port} {x : Event} (kind : x.code ≠ 17)
    (h : x ∈ (s.port q).events) : x ∈ ((old.noted s).port q).events :=
  State.mem_events_offerTo kind (State.mem_events_offerTo kind h)

/-! ### Services behind an answer -/

theorem State.port_setService_ne (s : State) {p q : Port} (h : q ≠ p) (v : Service) :
    (s.setService p v).port q = s.port q := by
  rw [State.setService, State.port_setPort_cases, if_neg h]

theorem State.service_answer_ne (s : State) {p q : Port} (h : q ≠ p) (r : Reply) :
    ((s.answer p r).port q).service = (s.port q).service := by
  unfold State.answer
  split
  · rw [State.port_setService_ne _ h]
  · rfl

@[simp] theorem State.enables_answer (s : State) (p q : Port) (r : Reply) :
    ((s.answer p r).port q).enables = (s.port q).enables := by
  unfold State.answer
  split
  · exact s.enables_setService p q _
  · rfl

theorem State.answer_repliedWith {s : State} {p : Port} {code : Byte} {payload : List Byte}
    (h : (s.port p).service = .serving code payload .taken) (r : Reply) :
    (s.answer p r).repliedWith p code payload r := by
  rw [State.answer_taken h]
  exact State.answered_service _ _ _ _ _

/-- Two ports answered, one after the other. -/
theorem State.answer_answer_repliedWith {s : State} {p q : Port} {code code' : Byte} {payload payload' : List Byte}
    (other : p ≠ q) (h : (s.port p).service = .serving code payload .taken)
    (h' : (s.port q).service = .serving code' payload' .taken) (r r' : Reply) :
    ((s.answer p r).answer q r').repliedWith p code payload r ∧
      ((s.answer p r).answer q r').repliedWith q code' payload' r' := by
  refine ⟨?_, State.answer_repliedWith ((s.service_answer_ne other.symm r).trans h') r'⟩
  exact ((s.answer p r).service_answer_ne other r').trans (State.answer_repliedWith h r)

theorem Ctrl.port_other_ne (c : Ctrl) : c.port ≠ c.other.port := by cases c <;> decide

theorem Ctrl.other_port_ne (c : Ctrl) : c.other.port ≠ c.port := by cases c <;> decide

/-! ### Claims (R73) -/

theorem State.claims_iff (s : State) (q : Ctrl) :
    s.claims q = true ↔ ∃ code, (s.port q.port).service = .serving code [] .waiting ∧
      (code = codeRequestAuthority ∨ code = codeSeizeAuthority ∧ s.settings.seizeEnable = true) := by
  unfold State.claims
  split
  · next code payload e =>
    rw [e]
    simp only [Bool.and_eq_true, Bool.or_eq_true, List.isEmpty_iff, beq_iff_eq, Service.serving.injEq]
    constructor
    · rintro ⟨rfl, claim⟩
      exact ⟨code, ⟨rfl, rfl, trivial⟩, claim⟩
    · rintro ⟨_, ⟨rfl, rfl, -⟩, claim⟩
      exact ⟨rfl, claim⟩
  · next other => exact ⟨nofun, fun ⟨code, e, _⟩ => absurd e (other _ _)⟩

/-- What a port claims does not hang on the service of the other. -/
theorem State.claims_setService (s : State) {c : Ctrl} {p : Port} (h : c.port ≠ p) (v : Service) :
    (s.setService p v).claims c = s.claims c := by
  rw [State.claims, State.port_setService_ne _ h, State.setService_settings, State.claims]

theorem State.take_waiting {s : State} {p : Port} {code : Byte} {payload : List Byte}
    (h : (s.port p).service = .serving code payload .waiting) :
    s.take p = s.setService p (.serving code payload .taken) := by
  rw [State.take, h]

/-! ### Grants, waits and vacated authority leave the rest of the ports -/

@[simp] theorem State.service_grant (s : State) (c : Ctrl) (q : Port) :
    ((s.grant c).port q).service = (s.port q).service := s.service_noted _ q

@[simp] theorem State.enables_grant (s : State) (c : Ctrl) (q : Port) :
    ((s.grant c).port q).enables = (s.port q).enables := s.enables_noted _ q

@[simp] theorem State.service_vacate (s : State) (q : Port) : (s.vacate.port q).service = (s.port q).service :=
  s.service_noted _ q

@[simp] theorem State.service_beginWait (s : State) (c h : Ctrl) (q : Port) :
    ((s.beginWait c h).port q).service = (s.port q).service := State.service_raise _ _ _ _

theorem State.beginWait_setService (s : State) (c h : Ctrl) (p : Port) (v : Service) :
    (s.setService p v).beginWait c h = (s.beginWait c h).setService p v := by
  refine Eq.trans (congrArg (fun u : State => u.raise h.port (.yieldAsked c)) ?_) (State.raise_setService _ _ _ _ _)
  cases p <;> rfl

/-! ### Two claims from FREE (R73) -/

/-- The winner granted and the other port waiting (R73). -/
def State.decided (s : State) (w : Ctrl) : State := (s.grant w).beginWait w.other w

theorem State.decided_spec (s : State) (w : Ctrl) :
    (s.decided w).arbiter = ⟨some w, some w.other, .running (s.settings.yieldTime * 1024000),
      .running (s.settings.holdSilence * 1024000)⟩ ∧
    s.decided w = { s with arbiter := (s.decided w).arbiter, ports := (s.decided w).ports } ∧
    (∀ q, ((s.decided w).port q).service = (s.port q).service) ∧
    ((s.port w.port).enables.getLsbD 4 = true → Event.yieldAsked w.other ∈ ((s.decided w).port w.port).events) := by
  obtain ⟨granted, frame⟩ := s.grant_spec w
  obtain ⟨waits, -⟩ := (s.grant w).beginWait_spec w.other w
  have settings : (s.grant w).settings = s.settings := congrArg (·.settings) frame
  refine ⟨?_, ?_, fun q => by simp [State.decided], fun on => State.mem_events_raise _ _ _ ?_⟩
  · rw [State.decided, waits, granted, settings]
    rfl
  · apply State.eq_of_fields <;> simp [State.decided, State.grant, State.beginWait]
  · exact (s.enables_grant w w.port).symm ▸ on

/-- Both claims decided: whichever port's claim is taken, the winner is answered DONE and the other PENDING (R73). -/
theorem claimFromFree_both {s : State} {c : Ctrl} (other : s.claims c.other = true) :
    claimFromFree c s =
      (if Straps.winner s.ident.straps = c then
        (((s.take c.other.port).decided (Straps.winner s.ident.straps)).answer c.other.port ⟨.pending, []⟩,
          some ⟨.done, []⟩)
      else (((s.take c.other.port).decided (Straps.winner s.ident.straps)).answer c.other.port ⟨.done, []⟩,
          some ⟨.pending, []⟩)) := by
  rw [claimFromFree, if_pos other]
  rfl

theorem State.answer_frame (s : State) (p : Port) (r : Reply) : s.answer p r = { s with ports := (s.answer p r).ports } := by
  apply State.eq_of_fields <;> simp

/-- A claim served from FREE, with a claim of the other port waiting (R73). -/
theorem claim_decided {s : State} {c w : Ctrl} {claim : Ctrl → Byte}
    (waits : (s.port c.port).service = .serving (claim c) [] .taken)
    (other : (s.port c.other.port).service = .serving (claim c.other) [] .waiting) (claims : s.claims c.other = true)
    (winner : w = Straps.winner s.ident.straps) :
    ∃ t : State, (claimFromFree c s).finish c.port = t ∧
      t.arbiter = ⟨some w, some w.other, .running (s.settings.yieldTime * 1024000),
        .running (s.settings.holdSilence * 1024000)⟩ ∧
      t.repliedWith w.port (claim w) [] ⟨.done, []⟩ ∧ t.repliedWith w.other.port (claim w.other) [] ⟨.pending, []⟩ ∧
      ((s.port w.port).enables.getLsbD 4 = true → Event.yieldAsked w.other ∈ (t.port w.port).events) ∧
      t = { s with arbiter := t.arbiter, ports := t.ports } := by
  rw [claimFromFree_both claims, ← winner, State.take_waiting other]
  have kept := s.enables_setService c.other.port w.port (.serving (claim c.other) [] .taken)
  have frame := s.setService_frame c.other.port (.serving (claim c.other) [] .taken)
  have taken : ((s.setService c.other.port (.serving (claim c.other) [] .taken)).port c.port).service =
      .serving (claim c) [] .taken := by
    rw [State.port_setService_ne _ (Ctrl.port_other_ne c), waits]
  have taken' := s.setService_service c.other.port (.serving (claim c.other) [] .taken)
  generalize s.setService c.other.port (.serving (claim c.other) [] .taken) = u at *
  generalize u.ports = ports at frame
  subst frame
  obtain ⟨arbiter, frame, services, asked⟩ := State.decided_spec { s with ports := ports } w
  generalize State.decided _ w = d at *
  have whole (r r' : Reply) : (d.answer c.other.port r).answer c.port r' = { s with
      arbiter := ((d.answer c.other.port r).answer c.port r').arbiter
      ports := ((d.answer c.other.port r).answer c.port r').ports } := by
    rw [State.answer_frame, State.answer_frame d, frame]
  have raised (r r' : Reply) (on : (s.port w.port).enables.getLsbD 4 = true) :
      Event.yieldAsked w.other ∈ (((d.answer c.other.port r).answer c.port r').port w.port).events := by
    rw [State.events_answer, State.events_answer]
    exact asked (kept ▸ on)
  have replied := fun r r' => State.answer_answer_repliedWith (s := d) (Ctrl.other_port_ne c)
    ((services _).trans taken') ((services _).trans taken) r r'
  by_cases mine : w = c
  · subst mine
    rw [if_pos rfl]
    obtain ⟨theirs, ours⟩ := replied ⟨.pending, []⟩ ⟨.done, []⟩
    exact ⟨_, rfl, by simpa [Served.finish] using arbiter, ours, theirs, raised _ _, whole _ _⟩
  · obtain rfl := Ctrl.eq_other_of_ne mine
    rw [if_neg mine]
    obtain ⟨theirs, ours⟩ := replied ⟨.done, []⟩ ⟨.pending, []⟩
    rw [Ctrl.other_other] at *
    exact ⟨_, rfl, by simpa [Served.finish] using arbiter, theirs, ours, raised _ _, whole _ _⟩

/-! ### A claim with no other (R72, R75) -/

/-- A claim from FREE with no claim of the other port: the claimant is granted and answered DONE. -/
theorem claim_alone {s : State} {c : Ctrl} {code : Byte} (taken : (s.port c.port).service = .serving code [] .taken)
    (claims : s.claims c.other = false) :
    ∃ t : State, (claimFromFree c s).finish c.port = t ∧ t.arbiter =
        { s.arbiter with holder := some c, silence := .running (s.settings.holdSilence * 1024000) } ∧
      t = { s with arbiter := t.arbiter, ports := t.ports } ∧ t.repliedWith c.port code [] ⟨.done, []⟩ := by
  obtain ⟨arbiter, frame⟩ := s.grant_spec c
  have replied := State.answer_repliedWith (s := s.grant c) ((s.service_grant c c.port).trans taken) ⟨.done, []⟩
  rw [claimFromFree, if_neg (by simp [claims]), done, Served.finish]
  refine ⟨_, rfl, by simpa [secondsLeft] using arbiter, ?_, replied⟩
  rw [State.answer_frame, frame]

/-! ### Seizures and releases (R74, R75, R78) -/

@[simp] theorem State.port_emptyStaging (s : State) (d : Ctrl) (q : Port) : (s.emptyStaging d).port q = s.port q := by
  cases d <;> cases q <;> rfl

@[simp] theorem State.port_endWait (s : State) (q : Port) : s.endWait.port q = s.port q := by cases q <;> rfl

/-- The former holder's authority seized: the wait ended, its buffer emptied, the sender granted (R75). -/
def State.seized (s : State) (c : Ctrl) : State :=
  (((s.endWait.emptyStaging c.other).grant c).raise c.other.port (.authorityLost c))

/-- The buffers, the arbiter and the ports of a change of holder; `d`'s buffer is the one emptied (R78). -/
structure State.Vacates (s t : State) (d : Ctrl) : Prop where
  row : (t.staging d).row = (s.staging d).row
  column : (t.staging d).column = (s.staging d).column
  cells : ∀ k : Fin 16, (t.staging d).cells[k] = 0x20 ∧ (t.staging d).loaded[k] = false
  other : t.staging d.other = s.staging d.other
  services : ∀ q, (t.port q).service = (s.port q).service
  frame : t = { s with arbiter := t.arbiter, ports := t.ports, store := { s.store with
    staging0 := t.store.staging0, staging1 := t.store.staging1 } }

theorem State.vacates_emptyStaging (s : State) (d : Ctrl) : s.Vacates (s.emptyStaging d) d := by
  obtain ⟨row, column, cells, other, frame⟩ := s.emptyStaging_spec d
  refine ⟨row, column, cells, other, fun q => ?_, ?_⟩
  · rw [frame]
    cases q <;> rfl
  · conv_lhs => rw [frame]
    cases d <;> rfl

/-- Authority and the ports change on, with every service as it was. -/
theorem State.Vacates.behind {s t u : State} {d : Ctrl} (h : s.Vacates t d)
    (frame : u = { t with arbiter := u.arbiter, ports := u.ports })
    (services : ∀ q, (u.port q).service = (t.port q).service) : s.Vacates u d := by
  have staging (e : Ctrl) : u.staging e = t.staging e := by rw [frame]; cases e <;> rfl
  refine ⟨?_, ?_, ?_, ?_, fun q => (services q).trans (h.services q), ?_⟩
  · rw [staging]; exact h.row
  · rw [staging]; exact h.column
  · rw [staging]; exact h.cells
  · rw [staging]; exact h.other
  · rw [frame, h.frame]

theorem State.Vacates.ofArbiter {s t : State} {d : Ctrl} {x : Arbiter}
    (h : ({ s with arbiter := x } : State).Vacates t d) : s.Vacates t d := by
  refine ⟨?_, ?_, h.cells, ?_, fun q => (h.services q).trans ?_, h.frame⟩
  · rw [h.row]; cases d <;> rfl
  · rw [h.column]; cases d <;> rfl
  · rw [h.other]; cases d <;> rfl
  · cases q <;> rfl

/-- Authority moved by a command in service, and that command answered. -/
theorem State.Vacates.answer {s t : State} {d : Ctrl} {p : Port} {code : Byte} {payload : List Byte}
    (h : (s.setService p (.serving code payload .taken)).Vacates t d) (r : Reply) :
    ((t.answer p r).staging d).row = (s.staging d).row ∧ ((t.answer p r).staging d).column = (s.staging d).column ∧
    (∀ k : Fin 16, ((t.answer p r).staging d).cells[k] = 0x20 ∧ ((t.answer p r).staging d).loaded[k] = false) ∧
    (t.answer p r).staging d.other = s.staging d.other ∧ (t.answer p r).repliedWith p code payload r ∧
    t.answer p r = { s with
      arbiter := (t.answer p r).arbiter, ports := (t.answer p r).ports
      store := { s.store with
        staging0 := (t.answer p r).store.staging0, staging1 := (t.answer p r).store.staging1 } } := by
  have buffer (e : Ctrl) : (t.answer p r).staging e = t.staging e := by
    rw [State.answer_frame]
    cases e <;> rfl
  have frame := h.frame
  refine ⟨?_, ?_, ?_, ?_, State.answer_repliedWith ((h.services p).trans (s.setService_service p _)) r, ?_⟩
  · rw [buffer, h.row, State.staging_setService]
  · rw [buffer, h.column, State.staging_setService]
  · rw [buffer]; exact h.cells
  · rw [buffer, h.other, State.staging_setService]
  · rw [State.setService_frame] at frame
    rw [State.answer_arbiter, State.answer_store]
    exact (t.answer_frame p r).trans (congrArg (fun x : State => { x with ports := (t.answer p r).ports }) frame)

theorem State.seized_spec (s : State) (c : Ctrl) :
    s.Vacates (s.seized c) c.other ∧
    (s.seized c).arbiter = ⟨some c, none, .stopped, .running (s.settings.holdSilence * 1024000)⟩ ∧
    ((s.port c.other.port).enables.getLsbD 1 = true →
      Event.authorityLost c ∈ ((s.seized c).port c.other.port).events) := by
  refine ⟨?_, ?_, fun on => State.mem_events_raise _ _ _ ?_⟩
  · refine (s.endWait.vacates_emptyStaging c.other).ofArbiter.behind ?_ ?_
    · apply State.eq_of_fields <;> simp [State.seized, State.grant]
    · simp [State.seized]
  · simp [State.seized, State.grant, State.emptyStaging, State.endWait, secondsLeft]
  · rw [State.enables_grant, State.port_emptyStaging, State.port_endWait]
    exact on

/-- Authority left by its holder: the waiting port is granted, or the state becomes FREE (R74, R77). -/
def State.passedOn (s : State) : State :=
  match s.arbiter.waiting with
  | some w => (s.endWait.grant w).raise w.port .authorityGranted
  | none => s.vacate

theorem State.passedOn_waiting {s : State} {w : Ctrl} (h : s.arbiter.waiting = some w) :
    s.passedOn = (s.endWait.grant w).raise w.port .authorityGranted := by
  rw [State.passedOn, h]

theorem State.passedOn_free {s : State} (h : s.arbiter.waiting = none) : s.passedOn = s.vacate := by
  rw [State.passedOn, h]

theorem State.passedOn_spec (s : State) :
    (s.arbiter.waiting = none → s.passedOn.arbiter = { s.arbiter with holder := none, silence := .stopped }) ∧
    (∀ w, s.arbiter.waiting = some w →
      s.passedOn.arbiter = ⟨some w, none, .stopped, .running (s.settings.holdSilence * 1024000)⟩ ∧
      ((s.port w.port).enables.getLsbD 3 = true → Event.authorityGranted ∈ (s.passedOn.port w.port).events)) ∧
    s.passedOn = { s with arbiter := s.passedOn.arbiter, ports := s.passedOn.ports } ∧
    (∀ q, (s.passedOn.port q).service = (s.port q).service) ∧
    (∀ q, ∀ x : Event, x.code ≠ 3 → x.code ≠ 17 → x ∈ (s.port q).events → x ∈ (s.passedOn.port q).events) := by
  cases waiting : s.arbiter.waiting with
  | none =>
    rw [State.passedOn_free waiting]
    exact ⟨fun _ => s.vacate_spec.1, nofun, s.vacate_spec.2, s.service_vacate,
      fun q x _ fired h => State.mem_events_noted fired (by cases q <;> exact h)⟩
  | some w =>
    rw [State.passedOn_waiting waiting]
    refine ⟨nofun, fun v same => ⟨?_, fun on => ?_⟩, ?_, fun q => by simp, fun q x granted fired h => ?_⟩
    · cases same
      simp [State.grant, State.endWait, secondsLeft]
    · cases same
      exact State.mem_events_raise _ _ _ (by rw [State.enables_grant, State.port_endWait]; exact on)
    · apply State.eq_of_fields <;> simp [State.grant, State.endWait]
    · exact State.mem_events_raise_of_ne granted (State.mem_events_noted fired (by cases q <;> exact h))

/-- RELEASE AUTHORITY of the holder (R74, R78). -/
theorem releaseServed_holder {s : State} {c : Ctrl} (h : s.arbiter.holder = some c) :
    releaseServed c s = done (s.emptyStaging c).passedOn [] := by
  have kept : (s.emptyStaging c).arbiter = s.arbiter := by cases c <;> rfl
  rw [releaseServed, if_pos h]
  cases waiting : s.arbiter.waiting with
  | none => rw [State.passedOn_free (kept ▸ waiting)]
  | some w =>
    rw [State.passedOn_waiting (kept ▸ waiting)]
    cases c <;> rfl

theorem silenceExpired_eq (h : Ctrl) (s : State) :
    silenceExpired h s = ((s.emptyStaging h).raise h.port .authorityExpired).passedOn := rfl

/-! ### The commands of the arbiter, served -/

theorem serve_withoutPayload {s : State} {p : Port} {code : Byte} (h : s.commanded p code []) (f : State → Served) :
    serve p code (withoutPayload f) s = .next ((f (s.setService p (.serving code [] .taken))).finish p) := by
  rw [serve_commanded h, withoutPayload, if_pos rfl]

theorem exec_seizeAuthority {s : State} {c : Ctrl} (h : s.commanded c.port codeSeizeAuthority [])
    (enabled : s.settings.seizeEnable = true) :
    exec (.seizeAuthority c) s = .next ((seizeServed c
      (s.setService c.port (.serving codeSeizeAuthority [] .taken))).finish c.port) := by
  show serve c.port codeSeizeAuthority (seizeChecked c) s = _
  rw [serve_commanded h, seizeChecked, State.setService_settings, if_pos enabled, withoutPayload, if_pos rfl]

theorem requestServed_free {s : State} (h : s.arbiter.holder = none) (c : Ctrl) :
    requestServed c s = claimFromFree c s := by
  rw [requestServed, h]

theorem seizeServed_free {s : State} (h : s.arbiter.holder = none) (c : Ctrl) :
    seizeServed c s = claimFromFree c s := by
  rw [seizeServed, h]

theorem requestServed_held {s : State} {d : Ctrl} (h : s.arbiter.holder = some d) (c : Ctrl) :
    requestServed c s =
      if d = c then done s []
      else if s.arbiter.waiting = some c then refuse s .pending else refuse (s.beginWait c d) .pending := by
  rw [requestServed, h]

theorem seizeServed_held {s : State} {d : Ctrl} (h : s.arbiter.holder = some d) (c : Ctrl) :
    seizeServed c s =
      if d = c then done s []
      else done ((((s.endWait).emptyStaging d).grant c).raise d.port (.authorityLost c)) [] := by
  rw [seizeServed, h]

/-- A claim alone, in terms of the state whose command was taken. -/
theorem claim_alone_taken {s : State} {c : Ctrl} (code : Byte) (alone : s.claims c.other = false) :
    ∃ t : State, (claimFromFree c (s.setService c.port (.serving code [] .taken))).finish c.port = t ∧ t.arbiter =
        { s.arbiter with holder := some c, silence := .running (s.settings.holdSilence * 1024000) } ∧
      t = { s with arbiter := t.arbiter, ports := t.ports } ∧ t.repliedWith c.port code [] ⟨.done, []⟩ := by
  have alone' := (s.claims_setService (Ctrl.other_port_ne c) (.serving code [] .taken)).trans alone
  obtain ⟨t, served, arbiter, frame, replied⟩ := claim_alone (s.setService_service c.port (.serving code [] .taken)) alone'
  rw [State.setService_frame] at frame arbiter
  exact ⟨t, served, arbiter, frame, replied⟩

end Sys2Proof.Machine
end

section
open Sys2Proof Sys2Proof.Machine

/-- Settles O32: the claims as the model reads them, two claims decided by the PRI strap, and one claim by the state. -/
theorem requestGrantsOrWaits : Obligations.RequestGrantsOrWaits := by
  refine ⟨fun q s => s.claims_iff q, fun c i claim w s both instr free winner => ?_, fun c s h => ⟨fun free alone => ?_,
    fun mine => ?_, fun theirs => ⟨fun waits => ?_, fun fresh => ?_⟩⟩⟩
  · have exec_eq : exec i s = .next ((claimFromFree c
        (s.setService c.port (.serving (claim c) [] .taken))).finish c.port) := by
      obtain ⟨commanded, claims⟩ := both c
      obtain ⟨rfl, code⟩ | ⟨rfl, code⟩ := instr
      · rw [code] at commanded ⊢
        rw [← requestServed_free (by simpa using free)]
        exact serve_withoutPayload commanded _
      · rw [code] at commanded claims ⊢
        rw [← seizeServed_free (by simpa using free)]
        exact exec_seizeAuthority commanded (claims.resolve_left (by decide)).2
    obtain ⟨⟨-, other⟩, claims⟩ := both c.other
    have claimed : (s.setService c.port (.serving (claim c) [] .taken)).claims c.other = true := by
      rw [State.claims_setService _ (Ctrl.other_port_ne c)]
      exact (s.claims_iff _).mpr ⟨_, other, claims⟩
    obtain ⟨t, served, arbiter, done, pending, asked, frame⟩ := claim_decided (claim := claim)
      (s.setService_service c.port _) ((congrArg PortState.service
        (s.port_setService_ne (Ctrl.other_port_ne c) _)).trans other) claimed (winner.trans (by simp [Straps.winner]))
    rw [State.enables_setService] at asked
    rw [State.setService_frame] at frame arbiter
    exact ⟨t, exec_eq.trans (congrArg _ served), arbiter, done, pending, asked, frame⟩
  · obtain ⟨t, served, arbiter, frame, replied⟩ := claim_alone_taken codeRequestAuthority alone
    refine ⟨t, (serve_withoutPayload h _).trans (congrArg _ ?_), arbiter, frame, replied⟩
    rw [requestServed_free (by simpa using free), served]
  · refine serve_answers h ?_
    rw [withoutPayload, if_pos rfl, requestServed_held (by simpa using mine), if_pos rfl]
    rfl
  · refine serve_answers h ?_
    rw [withoutPayload, if_pos rfl, requestServed_held (by simpa using theirs), if_neg (by cases c <;> decide),
      if_pos (by simpa using waits)]
    rfl
  · refine serve_answers h ?_
    rw [withoutPayload, if_pos rfl, requestServed_held (by simpa using theirs), if_neg (by cases c <;> decide),
      if_neg (by simpa using fresh), State.beginWait_setService]
    rfl

/-- Settles O33: a seizure by the state it meets, and a release by who releases. -/
theorem seizeAndReleaseMoveAuthority : Obligations.SeizeAndReleaseMoveAuthority := by
  refine ⟨fun c payload s h => ⟨fun disabled => ?_, fun enabled empty free alone => ?_, fun enabled empty mine => ?_,
    fun enabled empty theirs => ?_⟩, fun c s h => ⟨fun mine => ?_, fun notMine waits => ?_, fun notMine idle => ?_⟩⟩
  · refine serve_refused h ?_
    rw [seizeChecked, State.setService_settings, if_neg (by simp [disabled])]
  · subst empty
    obtain ⟨t, served, arbiter, frame, replied⟩ := claim_alone_taken codeSeizeAuthority alone
    refine ⟨t, (exec_seizeAuthority h enabled).trans (congrArg _ ?_), arbiter, frame, replied⟩
    rw [seizeServed_free (by simpa using free), served]
  · subst empty
    rw [exec_seizeAuthority h enabled, seizeServed_held (by simpa using mine), if_pos rfl]
    exact congrArg _ (State.answer_setService_taken _ _ _ _ _)
  · subst empty
    rw [exec_seizeAuthority h enabled, seizeServed_held (by simpa using theirs), if_neg (by cases c <;> decide)]
    obtain ⟨vacates, arbiter, lost⟩ := (s.setService c.port (.serving codeSeizeAuthority [] .taken)).seized_spec c
    obtain ⟨row, column, cells, other, replied, frame⟩ := vacates.answer ⟨.done, []⟩
    rw [State.enables_setService] at lost
    rw [State.setService_settings] at arbiter
    refine ⟨_, rfl, (State.answer_arbiter _ _ _).trans arbiter, row, column, cells, ?_, replied, ?_, ?_⟩
    · rwa [Ctrl.other_other] at other
    · intro on
      exact (State.events_answer _ _ _ _).symm ▸ lost on
    · exact frame
  · rw [show exec (.releaseAuthority c) s = _ from serve_withoutPayload h _, releaseServed_holder (by simpa using mine)]
    have emptied := (s.setService c.port (.serving codeReleaseAuthority [] .taken)).vacates_emptyStaging c
    have enables := fun q => s.enables_setService c.port q (.serving codeReleaseAuthority [] .taken)
    have ports := fun q => (s.setService c.port (.serving codeReleaseAuthority [] .taken)).port_emptyStaging c q
    have arbiter : ((s.setService c.port (.serving codeReleaseAuthority [] .taken)).emptyStaging c).arbiter =
        s.arbiter := by simp [State.emptyStaging]
    have settings : ((s.setService c.port (.serving codeReleaseAuthority [] .taken)).emptyStaging c).settings =
        s.settings := by simp [State.emptyStaging]
    generalize State.emptyStaging _ c = u at *
    obtain ⟨vacant, passed, frame, services, -⟩ := u.passedOn_spec
    obtain ⟨row, column, cells, other, replied, whole⟩ := (emptied.behind frame services).answer ⟨.done, []⟩
    rw [arbiter] at vacant
    rw [arbiter, settings] at passed
    refine ⟨_, rfl, row, column, cells, replied, fun free => (State.answer_arbiter _ _ _).trans (vacant free),
      fun w waiting => ?_, other, whole⟩
    obtain ⟨granted, event⟩ := passed w waiting
    refine ⟨(State.answer_arbiter _ _ _).trans granted, fun on => (State.events_answer _ _ _ _).symm ▸ event ?_⟩
    rw [ports, enables]
    exact on
  · refine serve_answers h ?_
    rw [withoutPayload, if_pos rfl, releaseServed, if_neg (by simpa using notMine), if_pos (by simpa using waits)]
    cases c <;> rfl
  · refine serve_answers h ?_
    rw [withoutPayload, if_pos rfl, releaseServed, if_neg (by simpa using notMine), if_neg (by simpa using idle)]
    rfl

/-- Settles O34: the wait lapses at one expiry; at the other the holder's buffer is emptied and authority passes on. -/
theorem authorityTimersExpire : Obligations.AuthorityTimersExpire := by
  refine ⟨fun w s operates yield waiting => ?_, fun h s operates silence holder => ?_⟩
  · show execYieldTimerExpiry s = _
    rw [execYieldTimerExpiry, whenOperating_operating operates, yield, waiting]
    rfl
  · have exec_eq : exec .holderSilenceExpiry s =
        .next ((s.emptyStaging h).raise h.port .authorityExpired).passedOn := by
      show execHolderSilenceExpiry s = _
      rw [execHolderSilenceExpiry, whenOperating_operating operates, silence, holder]
      rfl
    have kept : ((s.emptyStaging h).raise h.port .authorityExpired).arbiter = s.arbiter := by
      simp [State.emptyStaging]
    have settings : ((s.emptyStaging h).raise h.port .authorityExpired).settings = s.settings := by
      simp [State.emptyStaging]
    have expired := fun on => (s.emptyStaging h).mem_events_raise h.port .authorityExpired on
    have enables := fun q => (s.emptyStaging h).enables_raise h.port q .authorityExpired
    have emptied := (s.vacates_emptyStaging h).behind
      (u := (s.emptyStaging h).raise h.port .authorityExpired) (by
        conv_lhs => rw [State.raise_spec]
        simp) (fun q => State.service_raise _ _ _ _)
    simp only [State.port_emptyStaging] at expired enables
    generalize State.raise _ _ _ = u at *
    obtain ⟨vacant, passed, frame, services, stays⟩ := u.passedOn_spec
    have whole := emptied.behind frame services
    rw [kept, settings] at passed
    rw [kept] at vacant
    refine ⟨_, exec_eq, whole.row, whole.column, whole.cells, whole.other,
      fun on => stays _ _ (by decide) (by decide) (expired on), vacant, fun w waiting => ?_, whole.frame⟩
    obtain ⟨granted, event⟩ := passed w waiting
    exact ⟨granted, fun on => event ((enables w.port).symm ▸ on)⟩

end

section
/-! The evaluation of a record (R57 to R63): its cases, and what it keeps of the record. -/

namespace Sys2Proof.Machine

/-! ### Flash expiry (R58) -/

theorem flashExpiry_none {r : Record} (h : r.previous = none) (cfg : Settings) (n : Int) : flashExpiry cfg n r = r := by
  rw [flashExpiry, h]

theorem flashExpiry_expired {cfg : Settings} {n : Int} {r : Record} {p : Nat} {change : Int}
    (h : r.previous = some (p, change)) (expired : change + cfg.changeFlash ≤ n) :
    flashExpiry cfg n r = { r with previous := none } := by
  rw [flashExpiry, h]
  exact if_pos expired

theorem flashExpiry_flashing {cfg : Settings} {n : Int} {r : Record} {p : Nat} {change : Int}
    (h : r.previous = some (p, change)) (flashing : n < change + cfg.changeFlash) : flashExpiry cfg n r = r := by
  rw [flashExpiry, h]
  exact if_neg (by omega)

/-- Flash expiry touches the previous platform alone. -/
theorem flashExpiry_spec (cfg : Settings) (n : Int) (r : Record) :
    flashExpiry cfg n r = { r with previous := (flashExpiry cfg n r).previous } := by
  unfold flashExpiry
  split
  · split <;> rfl
  · rfl

/-! ### The lifecycle, case by case (R59 to R63) -/

theorem RecordState.live_iff (v : RecordState) : v.live = true ↔ v = .waiting ∨ v = .called ∨ v = .closing := by
  cases v <;> simp [RecordState.live]

theorem RecordState.not_live_iff (v : RecordState) :
    v.live = false ↔ (∃ m, v = .gone m) ∨ ∃ m, v = .cancelled m := by
  cases v <;> simp [RecordState.live]

theorem lifecycle_of_live {r : Record} (h : r.state.live = true) (cfg : Settings) (n : Int) :
    lifecycle cfg n r =
      if n ≥ r.effective + cfg.departGrace then moveToGone n r
      else if r.platform.isSome ∧ n ≥ r.effective - cfg.closeLead then moveToClosing n r
      else if r.platform.isSome ∧ n ≥ r.effective - cfg.callLead then moveToCalled r
      else moveToWaiting r := by
  obtain e | e | e := (RecordState.live_iff _).mp h <;> rw [lifecycle, e]

theorem lifecycle_departed {cfg : Settings} {n : Int} {r : Record} (live : r.state.live = true)
    (h : r.effective + cfg.departGrace ≤ n) : lifecycle cfg n r = moveToGone n r := by
  rw [lifecycle_of_live live, if_pos h]

theorem lifecycle_closing {cfg : Settings} {n : Int} {r : Record} (live : r.state.live = true)
    (before : n < r.effective + cfg.departGrace) (platform : r.platform.isSome = true)
    (h : r.effective - cfg.closeLead ≤ n) : lifecycle cfg n r = moveToClosing n r := by
  rw [lifecycle_of_live live, if_neg (by omega), if_pos ⟨platform, h⟩]

theorem lifecycle_called {cfg : Settings} {n : Int} {r : Record} (live : r.state.live = true)
    (before : n < r.effective + cfg.departGrace) (platform : r.platform.isSome = true)
    (early : n < r.effective - cfg.closeLead) (h : r.effective - cfg.callLead ≤ n) :
    lifecycle cfg n r = moveToCalled r := by
  rw [lifecycle_of_live live, if_neg (by omega), if_neg (by omega), if_pos ⟨platform, h⟩]

theorem lifecycle_waiting {cfg : Settings} {n : Int} {r : Record} (live : r.state.live = true)
    (before : n < r.effective + cfg.departGrace)
    (h : r.platform = none ∨ (n < r.effective - cfg.closeLead ∧ n < r.effective - cfg.callLead)) :
    lifecycle cfg n r = moveToWaiting r := by
  rw [lifecycle_of_live live, if_neg (by omega)]
  obtain absent | ⟨early, earlier⟩ := h
  · rw [if_neg (by simp [absent]), if_neg (by simp [absent])]
  · rw [if_neg (by omega), if_neg (by omega)]

theorem lifecycle_gone {r : Record} {g : Int} (h : r.state = .gone g) (cfg : Settings) (n : Int) :
    lifecycle cfg n r = if n ≥ g + cfg.goneHold then ⟨none, [], none, none, true⟩ else .keep r := by
  rw [lifecycle, h]

theorem lifecycle_cancelled {r : Record} {m : Int} (h : r.state = .cancelled m) (cfg : Settings) (n : Int) :
    lifecycle cfg n r = if n ≥ max r.sched m + cfg.cancelHold then ⟨none, [], none, none, true⟩ else .keep r := by
  rw [lifecycle, h]

theorem moveToClosing_issues {n : Int} {r : Record} (h : r.state ≠ .closing) (before : n ≤ r.effective)
    (masked : r.mask.getLsbD 1 = true) (fresh : r.closingIssued = false) :
    moveToClosing n r =
      ⟨some { r with state := .closing, closingIssued := true }, [.call], none, some .closing, true⟩ := by
  rw [moveToClosing, if_neg h, if_pos ⟨masked, fresh, before⟩]

theorem moveToClosing_silent {n : Int} {r : Record} (h : r.state ≠ .closing)
    (silent : r.effective < n ∨ r.mask.getLsbD 1 = false ∨ r.closingIssued = true) :
    moveToClosing n r = ⟨some { r with state := .closing }, [.call], none, none, true⟩ := by
  rw [moveToClosing, if_neg h, if_neg]
  rintro ⟨masked, fresh, before⟩
  obtain late | unmasked | issued := silent
  · omega
  · exact absurd (unmasked.symm.trans masked) nofun
  · exact absurd (fresh.symm.trans issued) nofun

theorem moveToCalled_issues {r : Record} (h : r.state = .waiting) (masked : r.mask.getLsbD 0 = true)
    (fresh : r.callIssued = false) :
    moveToCalled r = ⟨some { r with state := .called, callIssued := true }, [], none, some .call, true⟩ := by
  rw [moveToCalled, h]
  exact if_pos ⟨masked, fresh⟩

theorem moveToCalled_silent {r : Record} (h : r.state = .waiting)
    (silent : r.mask.getLsbD 0 = false ∨ r.callIssued = true) :
    moveToCalled r = ⟨some { r with state := .called }, [], none, none, true⟩ := by
  rw [moveToCalled, h]
  refine if_neg ?_
  rintro ⟨masked, fresh⟩
  obtain unmasked | issued := silent
  · exact absurd (unmasked.symm.trans masked) nofun
  · exact absurd (fresh.symm.trans issued) nofun

/-! ### The previous platform is no part of the lifecycle (R58) -/

/-- An evaluation whose record, where it is kept, has this previous platform. -/
def Evaluation.withPrevious (e : Evaluation) (p : Option (Nat × Int)) : Evaluation :=
  { e with record := e.record.map fun x => { x with previous := p } }

theorem moveToClosing_withPrevious (n : Int) (r : Record) (p : Option (Nat × Int)) :
    moveToClosing n { r with previous := p } = (moveToClosing n r).withPrevious p := by
  unfold moveToClosing
  rw [apply_ite (Evaluation.withPrevious · p), apply_ite (Evaluation.withPrevious · p)]
  rfl

theorem moveToCalled_withPrevious (r : Record) (p : Option (Nat × Int)) :
    moveToCalled { r with previous := p } = (moveToCalled r).withPrevious p := by
  unfold moveToCalled
  dsimp only
  split
  · rfl
  · split_ifs <;> rfl
  all_goals rfl

theorem moveToWaiting_withPrevious (r : Record) (p : Option (Nat × Int)) :
    moveToWaiting { r with previous := p } = (moveToWaiting r).withPrevious p := by
  unfold moveToWaiting
  dsimp only
  split_ifs <;> rfl

theorem lifecycle_withPrevious (cfg : Settings) (n : Int) (r : Record) (p : Option (Nat × Int)) :
    lifecycle cfg n { r with previous := p } = (lifecycle cfg n r).withPrevious p := by
  cases live : r.state.live with
  | true =>
    rw [lifecycle_of_live live, lifecycle_of_live (by exact live), moveToClosing_withPrevious,
      moveToCalled_withPrevious, moveToWaiting_withPrevious, apply_ite (Evaluation.withPrevious · p),
      apply_ite (Evaluation.withPrevious · p), apply_ite (Evaluation.withPrevious · p)]
    rfl
  | false =>
    obtain ⟨g, e⟩ | ⟨m, e⟩ := (RecordState.not_live_iff _).mp live
    · rw [lifecycle_gone e, lifecycle_gone (by exact e)]
      split_ifs <;> rfl
    · rw [lifecycle_cancelled e, lifecycle_cancelled (by exact e)]
      split_ifs <;> rfl

/-! ### What an evaluation keeps -/

theorem evaluate_untimed (cfg : Settings) (n : Int) (r : Record) : evaluate cfg false n r = .keep (flashExpiry cfg n r) :=
  rfl

theorem evaluate_timed (cfg : Settings) (n : Int) (r : Record) :
    evaluate cfg true n r = lifecycle cfg n (flashExpiry cfg n r) := rfl

/-- The record of a lifecycle step differs in its state and its two flags alone. -/
theorem lifecycle_keeps {cfg : Settings} {n : Int} {x r : Record} (h : (lifecycle cfg n x).record = some r) :
    r = { x with state := r.state, callIssued := r.callIssued, closingIssued := r.closingIssued } := by
  unfold lifecycle moveToGone moveToClosing moveToCalled moveToWaiting Evaluation.keep at h
  split at h
  all_goals
    split_ifs at h <;> (try split at h) <;> (cases h; rfl)

/-- The record of an evaluation differs in its state, its two flags and the previous platform alone. -/
theorem evaluate_keeps {cfg : Settings} {timed : Bool} {n : Int} {x r : Record}
    (h : (evaluate cfg timed n x).record = some r) :
    r = { x with
      state := r.state, callIssued := r.callIssued, closingIssued := r.closingIssued
      previous := (flashExpiry cfg n x).previous } := by
  cases timed with
  | false =>
    obtain rfl := Option.some.inj h
    rw [flashExpiry_spec]
  | true =>
    have kept := lifecycle_keeps h
    rw [flashExpiry_spec] at kept
    exact kept

/-- A live record is never freed by its evaluation. -/
theorem evaluate_live {x : Record} (live : x.state.live = true) (cfg : Settings) (timed : Bool) (n : Int) :
    ∃ r, (evaluate cfg timed n x).record = some r := by
  cases timed with
  | false => exact ⟨_, rfl⟩
  | true =>
    have live' : (flashExpiry cfg n x).state.live = true := by rw [flashExpiry_spec]; exact live
    rw [evaluate_timed, lifecycle_of_live live']
    unfold moveToGone moveToClosing moveToCalled moveToWaiting Evaluation.keep
    split_ifs <;> (try split) <;> exact ⟨_, rfl⟩

end Sys2Proof.Machine
end

section
open Sys2Proof Sys2Proof.Machine

/-- Settles O29: without a previous platform the lifecycle's cases; with one, expired or still flashing. -/
theorem evaluationFollowsTheLifecycle : Obligations.EvaluationFollowsTheLifecycle := by
  refine ⟨fun cfg n r none => ?_, fun cfg timed n r p change some => ⟨fun expired => ?_, fun flashing e eq => ?_⟩⟩
  · have live {v : RecordState} (h : r.state = v) (l : v.live = true) : r.state.live = true := h ▸ l
    rw [evaluate_untimed, evaluate_timed, flashExpiry_none none]
    refine ⟨rfl, fun alive late => lifecycle_departed ((RecordState.live_iff _).mpr alive) late,
      fun before platform close => ⟨fun state cue => ?_, fun state silent => ?_, fun state => ?_⟩,
      fun before platform early call => ⟨fun state masked fresh => ?_, fun state silent => ?_, fun state => ?_,
        fun state => ?_⟩,
      fun before out => ⟨fun state => ?_, fun state => ?_⟩,
      fun g state => ⟨fun held => ?_, fun held => ?_⟩, fun m state => ⟨fun held => ?_, fun held => ?_⟩⟩
    · rw [lifecycle_closing ((RecordState.live_iff _).mpr (by tauto)) before platform close,
        moveToClosing_issues (by rintro e; simp [e] at state) cue.1 cue.2.1 cue.2.2]
    · rw [lifecycle_closing ((RecordState.live_iff _).mpr (by tauto)) before platform close,
        moveToClosing_silent (by rintro e; simp [e] at state) silent]
    · rw [lifecycle_closing (live state rfl) before platform close, moveToClosing, if_pos state]
      rfl
    · rw [lifecycle_called (live state rfl) before platform early call, moveToCalled_issues state masked fresh]
    · rw [lifecycle_called (live state rfl) before platform early call, moveToCalled_silent state silent]
    · rw [lifecycle_called (live state rfl) before platform early call, moveToCalled, state]
      rfl
    · rw [lifecycle_called (live state rfl) before platform early call, moveToCalled, state]
    · rw [lifecycle_waiting (live state rfl) before out, moveToWaiting, if_pos state]
      rfl
    · rw [lifecycle_waiting ((RecordState.live_iff _).mpr (by tauto)) before out, moveToWaiting,
        if_neg (by rintro e; simp [e] at state)]
    · rw [lifecycle_gone state, if_pos held]
    · rw [lifecycle_gone state, if_neg (by omega)]
      rfl
    · rw [lifecycle_cancelled state, if_pos held]
    · rw [lifecycle_cancelled state, if_neg (by omega)]
      rfl
  · rw [evaluate, evaluate, flashExpiry_expired some expired, flashExpiry_none rfl]
  · rw [eq, evaluate, evaluate, flashExpiry_flashing some flashing, flashExpiry_none rfl]
    cases timed with
    | false => rfl
    | true => exact lifecycle_withPrevious cfg n { r with previous := none } r.previous

end

section
/-! The commands that change one record (2.7 to 2.9): what is served, and what the evaluation leaves of it. -/

namespace Sys2Proof.Machine

/-! ### Commands that name a record -/

theorem withRecord_found {s : State} {code : List Byte} {i : Slot} {r : Record} (find : s.table.findCode code = some i)
    (slot : s.table.slots[i] = some r) (f : Slot → Record → Served) : withRecord s code f = f i r := by
  have slot' : s.table.slots[i.val] = some r := slot
  simp only [withRecord, find, Fin.getElem_fin, slot']

/-- A command of the holder whose payload reads, on a record of the table, is served on that record. -/
theorem exec_onRecord {α : Type} {s : State} {c : Ctrl} {code : Byte} {payload : List Byte}
    {parse : List Byte → Option α} {q : α} {name : List Byte} {i : Slot} {r : Record}
    (h : s.commanded c.port code payload) (holds : s.arbiter.holder = some c) (reads : parse payload = some q)
    (find : s.table.findCode name = some i) (slot : s.table.slots[i] = some r) {served : α → State → Served}
    {f : State → Slot → Record → Served} (body : ∀ u, served q u = withRecord u name (f u)) :
    serve c.port code (authorised c (parsed parse served)) s =
      .next ((f (s.setService c.port (.serving code payload .taken)) i r).finish c.port) := by
  rw [serve_authorised h holds parse reads, body,
    withRecord_found (by rw [State.setService_table]; exact find) (by rw [State.setService_table]; exact slot)]

theorem finish_refuse (s : State) (c : Ctrl) (code : Byte) (payload : List Byte) (st : Status) :
    (refuse (s.setService c.port (.serving code payload .taken)) st).finish c.port =
      s.answered c.port code payload ⟨st, []⟩ :=
  State.answer_setService_taken _ _ _ _ _

theorem finish_done_nil (s : State) (c : Ctrl) (code : Byte) (payload : List Byte) :
    (done (s.setService c.port (.serving code payload .taken)) []).finish c.port =
      s.answered c.port code payload ⟨.done, []⟩ :=
  State.answer_setService_taken _ _ _ _ _

/-! ### The record behind a change (R33) -/

/-- A slot that holds this record, its conflict flag apart. -/
theorem slot_of_unflagged {x : Option Record} {r : Record} (h : x.map Record.unflagged = some r.unflagged) :
    ∃ r', x = some r' ∧ r' = { r with conflict := r'.conflict } := by
  obtain ⟨r', rfl, same⟩ := Option.map_eq_some_iff.mp h
  refine ⟨r', rfl, ?_⟩
  have back := congrArg (fun y : Record => { y with conflict := r'.conflict }) same
  exact back

/-- What a carried out change leaves in the slot: the record it leaves to the evaluation, with what the evaluation
sets. -/
theorem Change.carryOut_record {ch : Change} {c : Ctrl} {code : Byte} {payload : List Byte} {i : Slot} {s : State}
    {r : Record} (h : (ch.evaluation s).record = some r) :
    ∃ r', ((ch.carryOut c i (s.setService c.port (.serving code payload .taken))).finish c.port).table.slots[i] =
      some r' ∧ r' = { r with conflict := r'.conflict } := by
  obtain ⟨slot, -⟩ := ch.carryOut_changesRecord c code payload i s r h
  exact slot_of_unflagged (slot.trans (congrArg _ h))

theorem Change.carryOut_order {ch : Change} {c : Ctrl} {code : Byte} {payload : List Byte} {i : Slot} {s : State}
    {r : Record} (h : (ch.evaluation s).record = some r) :
    i ∈ ((ch.carryOut c i (s.setService c.port (.serving code payload .taken))).finish c.port).table.order := by
  obtain ⟨-, -, -, listed, -⟩ := ch.applied_spec s i
  rw [ch.carryOut_finish]
  show i ∈ ((ch.applied s i).checked s.settings.conflictWindow).order
  rw [Table.checked_order, listed, h]
  rfl

/-- A change that evaluates, with a live record: the record after it, in terms of the record it leaves. -/
theorem Change.carryOut_evaluated {x : Record} (live : x.state.live = true) (withdraw : List CueKind) (refresh : Bool)
    (ended : Option Ending) (issues : List Issue) (c : Ctrl) (code : Byte) (payload : List Byte) (i : Slot) (s : State) :
    ∃ (t : State) (e r' : Record),
      (Change.carryOut ⟨x, withdraw, refresh, ended, issues, true⟩ c i
        (s.setService c.port (.serving code payload .taken))).finish c.port = t ∧
      (evaluate s.settings s.table.timed s.table.working x).record = some e ∧
      t.table.slots[i] = some r' ∧
      r' = { x with
        state := e.state, callIssued := e.callIssued, closingIssued := e.closingIssued, conflict := r'.conflict
        previous := (flashExpiry s.settings s.table.working x).previous } ∧
      i ∈ t.table.order ∧
      s.changesRecord t c code payload i x (evaluate s.settings s.table.timed s.table.working x) withdraw refresh ended
        issues := by
  obtain ⟨e, some⟩ := evaluate_live live s.settings s.table.timed s.table.working
  obtain ⟨r', slot, unflagged⟩ := Change.carryOut_record (ch := ⟨x, withdraw, refresh, ended, issues, true⟩)
    (c := c) (code := code) (payload := payload) (i := i) some
  refine ⟨_, e, r', rfl, some, slot, ?_, Change.carryOut_order some, Change.carryOut_changesRecord _ c code payload i s e some⟩
  rw [unflagged]
  conv_lhs => rw [evaluate_keeps some]

/-! ### The delay announcement (R65) -/

theorem announcesDelay_iff {cfg : Settings} {r : Record} (live : r.state.live = true) :
    announcesDelay cfg r = true ↔ r.mask.getLsbD 3 = true ∧ cfg.delayCueThreshold ≤ r.delay ∧
      cfg.delayCueStep ≤ (r.delay - r.lastDelay.getD 0).natAbs := by
  simp only [announcesDelay, live, Bool.true_and, Bool.and_eq_true, decide_eq_true_eq, and_assoc]
  rfl

theorem delayAnnouncement_announces {cfg : Settings} {r : Record} (h : announcesDelay cfg r = true) (n : Int) (i : Slot) :
    delayAnnouncement cfg n i r = ({ r with lastDelay := some r.delay }, [r.issue i .delay none n]) := if_pos h

theorem delayAnnouncement_silent {cfg : Settings} {r : Record} (h : ¬announcesDelay cfg r = true) (n : Int) (i : Slot) :
    delayAnnouncement cfg n i r = (r, []) := if_neg h

/-- The announcement touches the last announced delay alone. -/
theorem delayAnnouncement_record (cfg : Settings) (n : Int) (i : Slot) (r : Record) :
    (delayAnnouncement cfg n i r).1 = { r with lastDelay := (delayAnnouncement cfg n i r).1.lastDelay } := by
  unfold delayAnnouncement
  split <;> rfl

/-! ### Stored times (R55) -/

theorem storedTime_spec (sched : Int) (x : Int) :
    (x < sched → storedTime sched (some x) = (some sched, true)) ∧
    (sched + 719 < x → storedTime sched (some x) = (some (sched + 719), true)) ∧
    (sched ≤ x → x ≤ sched + 719 → storedTime sched (some x) = (some x, false)) := by
  have eq : storedTime sched (some x) = if x < sched then (some sched, true)
      else if sched + 719 < x then (some (sched + 719), true) else (some x, false) := rfl
  rw [eq]
  refine ⟨fun h => if_pos h, fun h => ?_, fun h h' => ?_⟩
  · rw [if_neg (by omega), if_pos h]
  · rw [if_neg (by omega), if_neg (by omega)]

/-! ### AMEND EXPECTED (R38, R65) -/

/-- The record with the expected minute of an AMEND EXPECTED stored or removed (R38, R55). -/
def Record.amended (r : Record) (given : Option Int) : Record :=
  { r with expected := (storedTime r.sched given).1, clamped := (storedTime r.sched given).2 }

/-- The amended record with what the delay announcement makes of it: none where E does not change (R65). -/
def Record.amendment (r : Record) (given : Option Int) (cfg : Settings) (n : Int) (i : Slot) : Record × List Issue :=
  if (r.amended given).effective = r.effective then (r.amended given, [])
  else delayAnnouncement cfg n i (r.amended given)

theorem Record.amendment_record (r : Record) (given : Option Int) (cfg : Settings) (n : Int) (i : Slot) :
    (r.amendment given cfg n i).1 =
      { r.amended given with lastDelay := (r.amendment given cfg n i).1.lastDelay } := by
  unfold Record.amendment
  split
  · rfl
  · exact delayAnnouncement_record _ _ _ _

theorem Record.amendment_announced {r : Record} (live : r.state.live = true) {given : Option Int} {cfg : Settings}
    {n : Int} {i : Slot} (change : (r.amended given).effective ≠ r.effective) (masked : r.mask.getLsbD 3 = true)
    (late : cfg.delayCueThreshold ≤ (r.amended given).delay)
    (step : cfg.delayCueStep ≤ ((r.amended given).delay - r.lastDelay.getD 0).natAbs) :
    r.amendment given cfg n i =
      ({ r.amended given with lastDelay := some (r.amended given).delay }, [(r.amended given).issue i .delay none n]) := by
  rw [Record.amendment, if_neg change]
  exact delayAnnouncement_announces ((announcesDelay_iff (r := r.amended given) live).mpr ⟨masked, late, step⟩) n i

theorem Record.amendment_silent {r : Record} (live : r.state.live = true) {given : Option Int} {cfg : Settings}
    {n : Int} {i : Slot} (silent : (r.amended given).effective = r.effective ∨ r.mask.getLsbD 3 = false ∨
      (r.amended given).delay < cfg.delayCueThreshold ∨
      ((r.amended given).delay - r.lastDelay.getD 0).natAbs < cfg.delayCueStep) :
    r.amendment given cfg n i = (r.amended given, []) := by
  unfold Record.amendment
  split
  · rfl
  · next change =>
    refine delayAnnouncement_silent (fun announces => ?_) n i
    obtain ⟨masked, late, step⟩ := (announcesDelay_iff (r := r.amended given) live).mp announces
    obtain same | unmasked | early | near := silent
    · exact change same
    · exact absurd (unmasked.symm.trans masked) nofun
    · omega
    · exact absurd step (not_le.mpr near)

theorem amendServed_eq (c : Ctrl) (code : List Byte) (given : Option Int) (u : State) :
    amendServed c (code, given) u = withRecord u code fun i r =>
      if !r.state.live then refuse u .wrongState
      else Change.carryOut ⟨(r.amendment given u.settings u.table.working i).1, [],
        decide ((r.amended given).effective ≠ r.effective), none,
        (r.amendment given u.settings u.table.working i).2, true⟩ c i u := by
  unfold amendServed Record.amendment
  congr 1
  funext i r
  by_cases same : (r.amended given).effective = r.effective
  · have kept : ({ r with expected := (storedTime r.sched given).1, clamped := (storedTime r.sched given).2 } :
        Record).effective = r.effective := same
    simp only [if_pos kept, same, ne_eq, not_true_eq_false, decide_false]
    rfl
  · have change : ¬({ r with expected := (storedTime r.sched given).1, clamped := (storedTime r.sched given).2 } :
        Record).effective = r.effective := same
    simp only [if_neg change, ne_eq, same, not_false_eq_true, decide_true]
    rfl

end Sys2Proof.Machine
end

section
open Sys2Proof Sys2Proof.Machine

/-- Settles O22: the amended record is left to its evaluation, which keeps the fields stored. -/
theorem amendStoresTheForecast : Obligations.AmendStoresTheForecast := by
  intro c payload code given i r s h holds reads find slot
  have served := exec_onRecord h holds reads find slot (fun u => amendServed_eq c code given u)
  refine ⟨fun over_ => ?_, fun alive => ?_⟩
  · rw [show exec (.amendExpected c) s = _ from served,
      if_pos (by simpa using (RecordState.not_live_iff _).mpr over_), finish_refuse]
  · have live := (RecordState.live_iff _).mpr alive
    rw [if_neg (by simp [live]), State.setService_settings, State.setService_table] at served
    have kept := r.amendment_record given s.settings s.table.working i
    have announced := Record.amendment_announced live (given := given) (cfg := s.settings) (n := s.table.working) (i := i)
    have silent := Record.amendment_silent live (given := given) (cfg := s.settings) (n := s.table.working) (i := i)
    generalize r.amendment given s.settings s.table.working i = a at *
    obtain ⟨x, issues⟩ := a
    dsimp only at kept served
    obtain ⟨t, e, r', finished, evaluated, here, fields, -, changes⟩ := Change.carryOut_evaluated (x := x)
      (by rw [kept]; exact live) [] (decide ((r.amended given).effective ≠ r.effective)) none issues c
      codeAmendExpected payload i s
    rw [finished] at served
    have effective : r'.effective = (r.amended given).effective := by rw [fields, kept]; rfl
    have delay : r'.delay = (r.amended given).delay := by rw [fields, kept]; rfl
    have last : r'.lastDelay = x.lastDelay := by rw [fields]
    have stored : r'.expected = (storedTime r.sched given).1 ∧ r'.clamped = (storedTime r.sched given).2 := by
      rw [fields, kept]
      exact ⟨rfl, rfl⟩
    have rest : r'.code = r.code ∧ r'.sched = r.sched ∧ r'.platform = r.platform ∧ r'.destination = r.destination ∧
        r'.via = r.via ∧ r'.remark = r.remark ∧ r'.sector = r.sector ∧ r'.mask = r.mask := by
      rw [fields, kept]
      exact ⟨rfl, rfl, rfl, rfl, rfl, rfl, rfl, rfl⟩
    obtain ⟨expected, clamped⟩ := stored
    obtain ⟨e1, e2, e3, e4, e5, e6, e7, e8⟩ := rest
    refine ⟨t, r', issues, served, here, e1, e2, e3, e4, e5, e6, e7, e8, ?_, fun x given => ?_, ?_, ?_, ?_⟩
    · rintro rfl
      exact ⟨expected, clamped⟩
    · subst given
      obtain ⟨below, above, within⟩ := storedTime_spec r.sched x
      rw [expected, clamped]
      exact ⟨fun k => by rw [below k]; exact ⟨rfl, rfl⟩, fun k => by rw [above k]; exact ⟨rfl, rfl⟩,
        fun k k' => by rw [within k k']; exact ⟨rfl, rfl⟩⟩
    · rw [effective, delay]
      rintro ⟨change, masked, late, step⟩
      obtain ⟨rfl, rfl⟩ := Prod.mk.inj (announced change masked late step)
      exact ⟨last, rfl⟩
    · rw [effective, delay]
      intro quiet
      obtain ⟨rfl, rfl⟩ := Prod.mk.inj (silent quiet)
      exact ⟨last, rfl⟩
    · rintro y rfl
      rw [effective, expected, clamped, last]
      exact kept ▸ changes

end

section
/-! INSERT DEPARTURE, ASSIGN PLATFORM, and the commands that end a record (2.7 to 2.9). -/

namespace Sys2Proof.Machine

/-! ### The lowest slot with a property -/

theorem allSlots_find?_some {p : Slot → Bool} {i : Slot} (h : p i = true) (before : ∀ j : Slot, j < i → p j = false) :
    allSlots.find? p = some i := by
  rw [List.find?_eq_some_iff_getElem]
  refine ⟨h, i.val, by simp [allSlots], by simp [allSlots], fun j hj => ?_⟩
  have below := before ⟨j, by omega⟩ hj
  simpa [allSlots] using below

theorem allSlots_find?_none {p : Slot → Bool} (h : ∀ j : Slot, p j = false) : allSlots.find? p = none := by
  simp [List.find?_eq_none, h]

theorem Table.lowestFree_some {t : Table} {i : Slot} (free : t.slots[i] = none)
    (below : ∀ j : Slot, j < i → t.slots[j] ≠ none) : t.lowestFree = some i :=
  allSlots_find?_some (by simpa using free) fun j hj => by simpa [Option.isSome_iff_ne_none] using below j hj

theorem Table.lowestFree_none {t : Table} (full : ∀ j : Slot, t.slots[j] ≠ none) : t.lowestFree = none :=
  allSlots_find?_none fun j => by simpa [Option.isSome_iff_ne_none] using full j

theorem Table.findCode_isSome {t : Table} {code : List Byte} {j : Slot} {r : Record} (slot : t.slots[j] = some r)
    (h : r.code = code) : (t.findCode code).isSome = true := by
  rw [Table.findCode, List.find?_isSome]
  have slot' : t.slots[j.val] = some r := slot
  exact ⟨j, by simp [allSlots], by simp [slot', h]⟩

/-! ### INSERT DEPARTURE (R36, R37) -/

theorem Table.outsideWindow_iff (t : Table) (sched : Int) :
    t.outsideWindow sched = true ↔ sched < 0 ∨ 1679 < sched ∨ (t.timed = true ∧ sched < t.working - 15) := by
  simp [Table.outsideWindow, or_assoc]

/-- The record an insertion leaves to its evaluation, with what its announcement hands (R37, R65). -/
def InsertRequest.placed (q : InsertRequest) (cfg : Settings) (n : Int) (i : Slot) : Record × List Issue :=
  if q.expected.isSome then delayAnnouncement cfg n i q.record else (q.record, [])

theorem InsertRequest.placed_record (q : InsertRequest) (cfg : Settings) (n : Int) (i : Slot) :
    (q.placed cfg n i).1 = { q.record with lastDelay := (q.placed cfg n i).1.lastDelay } := by
  unfold InsertRequest.placed
  split
  · exact delayAnnouncement_record _ _ _ _
  · rfl

theorem InsertRequest.placed_announced {q : InsertRequest} {cfg : Settings} {n : Int} {i : Slot}
    (given : q.expected ≠ none) (masked : q.mask.getLsbD 3 = true) (late : cfg.delayCueThreshold ≤ q.record.delay)
    (step : cfg.delayCueStep ≤ q.record.delay.natAbs) :
    q.placed cfg n i = ({ q.record with lastDelay := some q.record.delay }, [q.record.issue i .delay none n]) := by
  rw [InsertRequest.placed, if_pos (Option.ne_none_iff_isSome.mp given)]
  refine delayAnnouncement_announces ((announcesDelay_iff rfl).mpr ⟨masked, late, ?_⟩) n i
  rw [show q.record.lastDelay.getD 0 = 0 from rfl, sub_zero]
  exact step

theorem InsertRequest.placed_silent {q : InsertRequest} {cfg : Settings} {n : Int} {i : Slot}
    (silent : q.expected = none ∨ q.mask.getLsbD 3 = false ∨ q.record.delay < cfg.delayCueThreshold ∨
      q.record.delay.natAbs < cfg.delayCueStep) : q.placed cfg n i = (q.record, []) := by
  unfold InsertRequest.placed
  split
  · next given =>
    refine delayAnnouncement_silent (fun announces => ?_) n i
    obtain ⟨masked, late, step⟩ := (announcesDelay_iff rfl).mp announces
    rw [show q.record.lastDelay.getD 0 = 0 from rfl, sub_zero] at step
    obtain absent | unmasked | early | near := silent
    · exact absurd given (by simp [absent])
    · exact absurd (unmasked.symm.trans masked) nofun
    · omega
    · exact absurd step (not_le.mpr near)
  · rfl

theorem insertServed_free {u : State} {q : InsertRequest} {i : Slot} (window : ¬u.table.outsideWindow q.sched = true)
    (fresh : u.table.findCode q.code = none) (free : u.table.lowestFree = some i) (c : Ctrl) :
    insertServed c q u = Change.carryOut ⟨(q.placed u.settings u.table.working i).1, [], false, none,
      (q.placed u.settings u.table.working i).2, true⟩ c i u := by
  rw [insertServed, if_neg window, fresh, free]
  rfl

/-! ### ASSIGN PLATFORM (R39 to R41) -/

theorem platformChange_first {r : Record} (h : r.platform = none) (i : Slot) (given : Option Nat) (n : Int) :
    platformChange r i given n = ⟨{ r with platform := given }, [], true, none, [], true⟩ := by
  unfold platformChange
  rw [h]

theorem platformChange_cleared {r : Record} {p : Nat} (h : r.platform = some p) (i : Slot) (n : Int) :
    platformChange r i none n =
      ⟨{ r with platform := none, previous := none }, [.call, .closing, .platformChange], true, none, [], true⟩ := by
  unfold platformChange
  rw [h]

theorem platformChange_moved {r : Record} {p : Nat} (h : r.platform = some p) (i : Slot) (q : Nat) (n : Int) :
    platformChange r i (some q) n =
      ⟨{ r with platform := some q, previous := some (p, n) }, [], true, none,
        if r.mask.getLsbD 2 = true then
          [⟨.platformChange, i, r.code, some q, some p, r.effective, r.delay, r.destination, r.remark, n⟩] else [],
        true⟩ := by
  unfold platformChange
  rw [h]
  rfl

end Sys2Proof.Machine
end

section
open Sys2Proof Sys2Proof.Machine

/-- Settles O21: the refusals in order; else the record placed is left to its evaluation. -/
theorem insertPlacesTheRecord : Obligations.InsertPlacesTheRecord := by
  intro c payload q s h holds reads
  have served := serve_authorised h holds parseInsert reads (insertServed c)
  have window := s.table.outsideWindow_iff q.sched
  refine ⟨fun out => ?_, fun low high late => ?_⟩
  · rw [show exec (.insertDeparture c) s = _ from served, insertServed, State.setService_table, if_pos (window.mpr out),
      finish_refuse]
  have within : ¬s.table.outsideWindow q.sched = true := by
    rw [window]
    rintro (below | above | ⟨timed, early⟩)
    · omega
    · omega
    · have := late timed; omega
  refine ⟨fun ⟨j, r, slot, same⟩ => ?_, fun fresh => ?_⟩
  · rw [show exec (.insertDeparture c) s = _ from served, insertServed, State.setService_table, if_neg within,
      if_pos (Table.findCode_isSome slot same), finish_refuse]
  have unfound := Table.findCode_eq_none fresh
  refine ⟨fun full => ?_, fun i free below => ?_⟩
  · rw [show exec (.insertDeparture c) s = _ from served, insertServed, State.setService_table, if_neg within,
      unfound, Table.lowestFree_none full]
    exact congrArg _ (finish_refuse _ _ _ _ _)
  rw [insertServed_free (by simpa using within) (by simpa using unfound)
    (by rw [State.setService_table]; exact Table.lowestFree_some free below), State.setService_settings,
    State.setService_table] at served
  have kept := q.placed_record s.settings s.table.working i
  have announced := @InsertRequest.placed_announced q s.settings s.table.working i
  have silent := @InsertRequest.placed_silent q s.settings s.table.working i
  generalize q.placed s.settings s.table.working i = a at *
  obtain ⟨x, issues⟩ := a
  dsimp only at kept served
  obtain ⟨t, e, r', finished, evaluated, here, fields, listed, changes⟩ := Change.carryOut_evaluated (x := x)
    (by rw [kept]; rfl) [] false none issues c codeInsertDeparture payload i s
  rw [finished] at served
  have delay : r'.delay = q.record.delay := by rw [fields, kept]; rfl
  have effective : r'.effective = q.record.effective := by rw [fields, kept]; rfl
  have last : r'.lastDelay = x.lastDelay := by rw [fields]
  have rest : r'.code = q.code ∧ r'.sched = q.sched ∧ r'.platform = q.platform ∧ r'.previous = none ∧
      r'.destination = q.destination ∧ r'.via = q.via ∧ r'.remark = q.remark ∧ r'.sector = q.sector ∧
      r'.mask = q.mask ∧ r'.expected = (storedTime q.sched q.expected).1 ∧
      r'.clamped = (storedTime q.sched q.expected).2 := by
    rw [fields, kept, flashExpiry_none rfl]
    exact ⟨rfl, rfl, rfl, rfl, rfl, rfl, rfl, rfl, rfl, rfl, rfl⟩
  obtain ⟨e1, e2, e3, e4, e5, e6, e7, e8, e9, expected, clamped⟩ := rest
  refine ⟨t, r', issues, served, here, e1, e2, e3, e4, e5, e6, e7, e8, e9, fun absent => ?_, fun y given => ?_, ?_, ?_,
    fun untimed => ?_, listed, ?_⟩
  · obtain ⟨rfl, rfl⟩ := Prod.mk.inj (silent (.inl absent))
    rw [expected, clamped, absent]
    exact ⟨rfl, rfl, last⟩
  · obtain ⟨before, above, inside⟩ := storedTime_spec q.sched y
    rw [expected, clamped, given]
    exact ⟨fun k => by rw [before k]; exact ⟨rfl, rfl⟩, fun k => by rw [above k]; exact ⟨rfl, rfl⟩,
      fun k k' => by rw [inside k k']; exact ⟨rfl, rfl⟩⟩
  · rw [effective, delay]
    rintro ⟨given, masked, late, step⟩
    obtain ⟨rfl, rfl⟩ := Prod.mk.inj (announced given masked late step)
    exact ⟨last, rfl⟩
  · rw [delay]
    intro quiet
    obtain ⟨rfl, rfl⟩ := Prod.mk.inj (silent quiet)
    exact ⟨last, rfl⟩
  · rw [untimed, evaluate_untimed] at evaluated
    obtain rfl := Option.some.inj evaluated
    rw [fields, kept, flashExpiry_none rfl]
    exact ⟨rfl, rfl, rfl⟩
  · rintro y rfl
    have back : x = { r' with state := .waiting, callIssued := false, closingIssued := false, conflict := false } := by
      rw [fields, kept, flashExpiry_none rfl]
      rfl
    exact back ▸ changes

/-- Settles O23: the platform held changes nothing; else the change of its case is carried out. -/
theorem assignPlatformFollowsItsCases : Obligations.AssignPlatformFollowsItsCases := by
  intro c payload code given i r s h holds reads find slot
  have served := exec_onRecord h holds reads find slot (served := assignServed c)
    (f := fun u i r => if !r.state.live then refuse u .wrongState else if r.platform = given then done u []
      else (platformChange r i given u.table.working).carryOut c i u) (fun u => rfl)
  refine ⟨fun ended => ?_, fun alive => ⟨fun held => ?_, fun moved => ?_⟩⟩
  · rw [show exec (.assignPlatform c) s = _ from served,
      if_pos (by simpa using (RecordState.not_live_iff _).mpr ended), finish_refuse]
  · have live := (RecordState.live_iff _).mpr alive
    rw [show exec (.assignPlatform c) s = _ from served, if_neg (by simp [live]), if_pos held.symm, finish_done_nil]
  have live := (RecordState.live_iff _).mpr alive
  rw [if_neg (by simp [live]), if_neg (Ne.symm moved), State.setService_table] at served
  have carried (x : Record) (withdraw : List CueKind) (issues : List Issue) (alive : x.state.live = true) :=
    Change.carryOut_evaluated alive withdraw true none issues c codeAssignPlatform payload i s
  cases held : r.platform with
  | none =>
    rw [platformChange_first held] at served
    obtain ⟨t, e, r', finished, -, here, fields, -, changes⟩ := carried { r with platform := given } [] [] live
    refine ⟨t, r', { r with platform := given }, [], [], served.trans (congrArg _ finished), here, ?_⟩
    have rest : r'.platform = given ∧ r'.code = r.code ∧ r'.sched = r.sched ∧ r'.expected = r.expected ∧
        r'.destination = r.destination ∧ r'.via = r.via ∧ r'.remark = r.remark ∧ r'.sector = r.sector ∧
        r'.mask = r.mask ∧ r'.lastDelay = r.lastDelay := by
      rw [fields]
      exact ⟨rfl, rfl, rfl, rfl, rfl, rfl, rfl, rfl, rfl, rfl⟩
    obtain ⟨e1, e2, e3, e4, e5, e6, e7, e8, e9, e10⟩ := rest
    exact ⟨e1, e2, e3, e4, e5, e6, e7, e8, e9, e10, fun q _ some => ⟨by rw [some], rfl, rfl⟩, nofun,
      fun absent => absurd (absent.trans held.symm) moved, changes⟩
  | some p =>
    cases given with
    | none =>
      rw [platformChange_cleared held] at served
      obtain ⟨t, e, r', finished, -, here, fields, -, changes⟩ := carried { r with platform := none, previous := none }
        [.call, .closing, .platformChange] [] live
      rw [flashExpiry_none rfl] at fields
      refine ⟨t, r', { r with platform := none, previous := none }, [.call, .closing, .platformChange],
        [], served.trans (congrArg _ finished), here, ?_⟩
      have rest : r'.platform = none ∧ r'.previous = none ∧ r'.code = r.code ∧ r'.sched = r.sched ∧
          r'.expected = r.expected ∧ r'.destination = r.destination ∧ r'.via = r.via ∧ r'.remark = r.remark ∧
          r'.sector = r.sector ∧ r'.mask = r.mask ∧ r'.lastDelay = r.lastDelay := by
        rw [fields]
        exact ⟨rfl, rfl, rfl, rfl, rfl, rfl, rfl, rfl, rfl, rfl, rfl⟩
      obtain ⟨e1, e0, e2, e3, e4, e5, e6, e7, e8, e9, e10⟩ := rest
      exact ⟨e1, e2, e3, e4, e5, e6, e7, e8, e9, e10, nofun, nofun, fun _ => ⟨rfl, e0, rfl, rfl⟩, changes⟩
    | some q =>
      rw [platformChange_moved held] at served
      obtain ⟨t, e, r', finished, -, here, fields, -, changes⟩ := carried
        { r with platform := some q, previous := some (p, s.table.working) } []
        (if r.mask.getLsbD 2 = true then
          [⟨.platformChange, i, r.code, some q, some p, r.effective, r.delay, r.destination, r.remark,
            s.table.working⟩] else []) live
      refine ⟨t, r', { r with platform := some q, previous := some (p, s.table.working) }, [],
        (if r.mask.getLsbD 2 = true then
          [⟨.platformChange, i, r.code, some q, some p, r.effective, r.delay, r.destination, r.remark,
            s.table.working⟩] else []), served.trans (congrArg _ finished), here, ?_⟩
      have rest : r'.platform = some q ∧ r'.code = r.code ∧ r'.sched = r.sched ∧
          r'.expected = r.expected ∧ r'.destination = r.destination ∧ r'.via = r.via ∧ r'.remark = r.remark ∧
          r'.sector = r.sector ∧ r'.mask = r.mask ∧ r'.lastDelay = r.lastDelay := by
        rw [fields]
        exact ⟨rfl, rfl, rfl, rfl, rfl, rfl, rfl, rfl, rfl, rfl⟩
      obtain ⟨e1, e2, e3, e4, e5, e6, e7, e8, e9, e10⟩ := rest
      refine ⟨e1, e2, e3, e4, e5, e6, e7, e8, e9, e10, nofun, ?_, nofun, changes⟩
      rintro p' q' same same'
      obtain rfl := Option.some.inj same
      obtain rfl := Option.some.inj same'
      refine ⟨rfl, rfl, rfl, fun flashes => ?_, fun never => ?_⟩
      · rw [fields, flashExpiry_flashing rfl (by omega)]
      · rw [fields, flashExpiry_expired rfl (by omega)]

/-- Settles O25: the record ends without an evaluation, and what it hands is written out. -/
theorem cancelAndDepartedEndTheRecord : Obligations.CancelAndDepartedEndTheRecord := by
  intro c code payload i r s holds reads find slot
  refine ⟨fun h => ?_, fun h => ?_⟩
  · have served := exec_onRecord h holds reads find slot (served := cancelServed c)
      (f := fun u i r => if !r.state.live then refuse u .wrongState else
        Change.carryOut ⟨{ r with state := .cancelled u.table.working }, [.call, .closing, .delay, .platformChange],
          false, some .cancelled, if inMask r.mask .cancel then
            [({ r with state := .cancelled u.table.working } : Record).issue i .cancel none u.table.working] else [],
          false⟩ c i u) (fun u => rfl)
    refine ⟨fun alive => ?_, fun ended => ?_⟩
    · rw [if_neg (by simp [(RecordState.live_iff _).mpr alive]), State.setService_table] at served
      have changes := Change.carryOut_changesRecord ⟨{ r with state := .cancelled s.table.working },
        [.call, .closing, .delay, .platformChange], false, some .cancelled, if inMask r.mask .cancel then
            [({ r with state := .cancelled s.table.working } : Record).issue i .cancel none s.table.working] else [],
          false⟩ c codeCancelDeparture payload i s _ rfl
      refine ⟨_, served, changes.1, ?_, ?_⟩
      · obtain ⟨-, -, -, -, -, -, cues, -⟩ := changes
        rw [cues]
        by_cases masked : r.mask.getLsbD 4 = true
        · rw [if_pos masked, if_pos (show inMask r.mask .cancel = true from masked)]
          rfl
        · rw [if_neg masked, if_neg (show ¬inMask r.mask .cancel = true from masked)]
          rfl
      · rintro x rfl
        exact changes
    · rw [show exec (.cancelDeparture c) s = _ from served,
        if_pos (by simpa using (RecordState.not_live_iff _).mpr ended), finish_refuse]
  · have served := exec_onRecord h holds reads find slot (served := departedServed c)
      (f := fun u i r => if !r.state.live then refuse u .wrongState else
        Change.carryOut ⟨{ r with state := .gone u.table.working }, everyKind, false, some .gone, [], false⟩ c i u)
      (fun u => rfl)
    refine ⟨fun alive => ?_, fun ended => ?_⟩
    · rw [if_neg (by simp [(RecordState.live_iff _).mpr alive]), State.setService_table] at served
      have changes := Change.carryOut_changesRecord ⟨{ r with state := .gone s.table.working }, everyKind, false,
        some .gone, [], false⟩ c codeMarkDeparted payload i s _ rfl
      refine ⟨_, served, changes.1, ?_, ?_⟩
      · obtain ⟨-, -, -, -, -, -, cues, -⟩ := changes
        rw [cues]
        rfl
      · rintro x rfl
        exact changes
    · rw [show exec (.markDeparted c) s = _ from served,
        if_pos (by simpa using (RecordState.not_live_iff _).mpr ended), finish_refuse]

/-- Settles O26: a CANCELLED record is left WAITING to its evaluation, behind the withdrawal of its CANCEL cue. -/
theorem reinstateReturnsACancelledRecord : Obligations.ReinstateReturnsACancelledRecord := by
  intro c code payload i r s h holds reads find slot
  have served := exec_onRecord h holds reads find slot (served := reinstateServed c)
    (f := fun u i r => match r.state with
      | .cancelled _ =>
        Change.carryOut
          ⟨{ r with state := .waiting, callIssued := false, closingIssued := false }, [.cancel], false, none, [], true⟩
          c i u
      | .waiting | .called | .closing | .gone _ => refuse u .wrongState) (fun u => rfl)
  refine ⟨fun other => ?_, fun m cancelled => ?_⟩
  · rw [show exec (.reinstate c) s = _ from served]
    cases state : r.state with
    | cancelled m => exact absurd state (other m)
    | waiting | called | closing | gone => exact congrArg _ (finish_refuse _ _ _ _ _)
  · simp only [cancelled] at served
    obtain ⟨t, e, r', finished, evaluated, here, fields, -, changes⟩ := Change.carryOut_evaluated
      (x := { r with state := .waiting, callIssued := false, closingIssued := false }) rfl [.cancel] false none [] c
      codeReinstate payload i s
    rw [finished] at served
    have rest : r'.code = r.code ∧ r'.sched = r.sched ∧ r'.expected = r.expected ∧ r'.platform = r.platform ∧
        r'.lastDelay = r.lastDelay ∧ r'.state = e.state ∧ r'.callIssued = e.callIssued ∧
        r'.closingIssued = e.closingIssued := by
      rw [fields]
      exact ⟨rfl, rfl, rfl, rfl, rfl, rfl, rfl, rfl⟩
    obtain ⟨e1, e2, e3, e4, e5, state, call, closing⟩ := rest
    have cues : t.cues.inbox = _ := congrArg Cues.inbox changes.2.2.2.2.2.2.1
    refine ⟨t, r', _, served, here, e1, e2, e3, e4, e5, fun untimed => ?_, fun timed departed => ?_, cues, ?_⟩
    · rw [untimed, evaluate_untimed] at evaluated
      obtain rfl := Option.some.inj evaluated
      rw [state, call, closing, flashExpiry_spec]
      exact ⟨rfl, rfl, rfl⟩
    · rw [timed, evaluate_timed, lifecycle_departed (by rw [flashExpiry_spec]; rfl)
        (by rw [flashExpiry_spec]; exact departed)] at evaluated
      obtain rfl := Option.some.inj evaluated
      exact state
    · rintro x rfl
      exact changes

end

section
/-! Edits, removals, and the table's rebase and reads (2.2, 2.8 to 2.10). -/

namespace Sys2Proof.Machine

/-! ### Edits (R42 to R44) -/

theorem editOnly_finish (c : Ctrl) (i : Slot) (r : Record) (ns : List Notification) (s : State) (code : Byte)
    (payload : List Byte) :
    (editOnly c i r ns (s.setService c.port (.serving code payload .taken))).finish c.port =
      (({ s with table := s.table.hold i r } : State).hand (some c) ns).answered c.port code payload ⟨.done, []⟩ := by
  have commutes (p : Port) (v : Service) : editOnly c i r ns (s.setService p v) =
      ((({ s with table := s.table.hold i r } : State).hand (some c) ns).setService p v, some ⟨.done, []⟩) := by
    cases p <;> rfl
  rw [commutes, Served.finish, State.answer_setService_taken]

theorem CueKind.maskBit_lt {k : CueKind} {b : Nat} (h : k.maskBit = some b) : b < 5 := by
  cases k <;> cases h <;> decide

theorem inMask_iff (m : BitVec 5) (k : CueKind) : inMask m k = true ↔ ∃ b, k.maskBit = some b ∧ m.getLsbD b = true := by
  unfold inMask
  split
  · next e => simp [e]
  · next e => simp [e]

theorem mem_removedKinds (old new : BitVec 5) (k : CueKind) :
    k ∈ removedKinds old new ↔ ∃ b, k.maskBit = some b ∧ old.getLsbD b = true ∧ new.getLsbD b = false := by
  have member : k ∈ removedKinds old new ↔ inMask old k = true ∧ inMask new k = false := by
    cases k <;> simp [removedKinds, inMask, CueKind.maskBit]
  rw [member, inMask_iff]
  unfold inMask
  constructor
  · rintro ⟨⟨b, bit, on⟩, off⟩
    rw [bit] at off
    exact ⟨b, bit, on, off⟩
  · rintro ⟨b, bit, on, off⟩
    rw [bit]
    exact ⟨⟨b, rfl, on⟩, off⟩

/-- Every bit of a mask is that of a kind. -/
theorem exists_maskBit {b : Nat} (h : b < 5) : ∃ k : CueKind, k.maskBit = some b := by
  match b, h with
  | 0, _ => exact ⟨.call, rfl⟩
  | 1, _ => exact ⟨.closing, rfl⟩
  | 2, _ => exact ⟨.platformChange, rfl⟩
  | 3, _ => exact ⟨.delay, rfl⟩
  | 4, _ => exact ⟨.cancel, rfl⟩

/-! ### Freeing slots (R22, R48, R49) -/

theorem Table.findCode_occupied {t : Table} {code : List Byte} {i : Slot} (h : t.findCode code = some i) :
    ∃ r, t.slots[i] = some r := by
  have found := List.find?_some h
  obtain ⟨r, slot, -⟩ := (Option.any_eq_true _ _).mp found
  exact ⟨r, slot⟩

theorem Table.free_other {t : Table} {i j : Slot} (other : j ≠ i) :
    (t.free i).slots[j] =
      if t.pairs.contains (i, j) || t.pairs.contains (j, i) then
        t.slots[j].map fun r => { r with conflict := inPairs (t.free i).pairs j }
      else t.slots[j] := by
  simp [Table.free, other]

theorem Table.free_order (t : Table) (i : Slot) :
    (t.free i).order = t.order.filter fun j => decide (j ≠ i) := by
  refine List.filter_congr fun j _ => ?_
  by_cases same : j = i <;> simp [same]

theorem withTable_hand_setService (s : State) (t : Table) (c : Ctrl) (ns : List Notification) (p : Port) (v : Service) :
    done (State.hand { s.setService p v with table := t } (some c) ns) [] =
      ((({ s with table := t } : State).hand (some c) ns).setService p v, some ⟨.done, []⟩) := by
  cases p <;> rfl

theorem removeServed_body (c : Ctrl) (code : List Byte) (u : State) :
    removeServed c code u = withRecord u code fun i _ =>
      done ({ u with table := u.table.free i }.hand (some c) [.freed i]) [] := rfl

/-- The state with the board cleared, its event not raised yet (R49). -/
def State.boardCleared (s : State) (c : Ctrl) : State :=
  ({ s with table := { s.table with slots := Vector.replicate 96 none, order := [], pairs := [] } } : State).hand (some c)
    [.cleared]

theorem clearBoardServed_taken (c : Ctrl) (s : State) (p : Port) (v : Service) :
    clearBoardServed c (s.setService p v) =
      (((s.boardCleared c).raiseRouted
        (.boardChanged ((allSlots.find? fun i => s.table.slots[i].isSome).getD 0))).setService p v,
        some ⟨.done, []⟩) := by
  rw [← State.raiseRouted_setService]
  cases p <;> rfl

/-! ### The rebase stage (R24) -/

theorem Table.mem_foldr_insertOrdered (u : Table) (l : List Slot) (j : Slot) :
    j ∈ l.foldr u.insertOrdered [] ↔ j ∈ l := by
  induction l with
  | nil => simp
  | cons i l ih => rw [List.foldr_cons, Table.mem_insertOrdered, ih, List.mem_cons]

theorem Table.rebase_slots (t : Table) (i : Slot) : t.rebase.slots[i] = (t.slots[i]).map Record.rebase :=
  mapAll_get _ _ _

/-- The rebase leaves the mode, the pairs and the inbox (R24). -/
theorem Table.rebase_spec (t : Table) : t.rebase.working = t.working - 1440 ∧ t.rebase.timed = t.timed ∧
    t.rebase.pairs = t.pairs := by
  simp only [Table.rebase, and_self]

/-- The stage at the table, and the stages that follow (R4, R24). -/
def State.tableRebased (s : State) (rest : List MinuteItem) : State :=
  { s with
    table := { s.table.rebase with inbox := rest }
    composer := { s.composer with inbox := s.composer.inbox ++ [.rebase] }
    cues := { s.cues with inbox := s.cues.inbox ++ [.rebase] }
    time := { s.time with rollover := some .composer } }

theorem exec_tableRebase {s : State} {rest : List MinuteItem} (operates : s.operating)
    (h : s.table.inbox = .rebase :: rest) : exec .tableRebase s = .next (s.tableRebased rest) := by
  show execTableRebase s = _
  rw [execTableRebase, whenOperating_operating operates, h]
  rfl

/-! ### Bytes of a record (10.8) -/

theorem beInt_length (n : Int) : (beInt n).length = 2 := rfl

theorem padTo_length (n : Nat) (bs : List Byte) : (padTo n bs).length = n := by
  simp only [padTo, List.length_append, List.length_take, List.length_replicate]
  omega

theorem packCode_length (code : List Byte) : (packCode code).length = 6 := rfl

theorem ite_scaled (b : Bool) (k : Nat) : (if b then k else 0) = k * (if b then 1 else 0) := by
  cases b <;> simp

theorem packFlags_eight (a b c d e f g h : Bool) :
    packFlags [a, b, c, d, e, f, g, h] = byte ((if a then 128 else 0) + (if b then 64 else 0) + (if c then 32 else 0) +
      (if d then 16 else 0) + (if e then 8 else 0) + (if f then 4 else 0) + (if g then 2 else 0) + (if h then 1 else 0)) := by
  rw [ite_scaled a 128, ite_scaled b 64, ite_scaled c 32, ite_scaled d 16, ite_scaled e 8, ite_scaled f 4, ite_scaled g 2,
    packFlags]
  simp only [List.foldl]
  congr 1
  omega

end Sys2Proof.Machine
end

section
open Sys2Proof Sys2Proof.Machine

/-- Settles O24: each edit holds the record with its field set and hands its notifications, and that is all. -/
theorem editsSetOneFieldAndHandTheirNotifications : Obligations.EditsSetOneFieldAndHandTheirNotifications := by
  intro c payload code i r s holds find slot
  refine ⟨fun x h reads => ?_, fun x h reads => ?_, fun x h reads => ?_⟩
  · exact (exec_onRecord h holds reads find slot (served := remarkServed c) (fun u => rfl)).trans
      (congrArg _ (editOnly_finish c i _ _ s _ _))
  · exact (exec_onRecord h holds reads find slot (served := sectorServed c) (fun u => rfl)).trans
      (congrArg _ (editOnly_finish c i _ _ s _ _))
  · refine ⟨withdrawal i (removedKinds r.mask x), (exec_onRecord h holds reads find slot (served := maskServed c)
      (fun u => rfl)).trans (congrArg _ (editOnly_finish c i _ _ s _ _)), fun kept => ?_, fun ⟨b, lt, on, off⟩ => ?_⟩
    · refine if_pos (List.eq_nil_iff_forall_not_mem.mpr fun k removed => ?_)
      obtain ⟨b, bit, on, off⟩ := (mem_removedKinds _ _ k).mp removed
      exact absurd (off.symm.trans (kept b (CueKind.maskBit_lt bit) on)) nofun
    · obtain ⟨k, bit⟩ := exists_maskBit lt
      have removed : k ∈ removedKinds r.mask x := (mem_removedKinds _ _ k).mpr ⟨b, bit, on, off⟩
      exact ⟨_, if_neg (List.ne_nil_of_mem removed), mem_removedKinds _ _⟩

/-- Settles O27: REMOVE DEPARTURE is the freeing of its slot, CLEAR BOARD that of all. -/
theorem removeAndClearFreeTheSlots : Obligations.RemoveAndClearFreeTheSlots := by
  refine ⟨fun c code payload i s h holds reads find => ?_, fun c low s h holds lowest => ?_⟩
  · obtain ⟨r, slot⟩ := Table.findCode_occupied find
    obtain ⟨freed, others, -, pairs, frame⟩ := s.table.free_spec i
    refine ⟨({ s with table := s.table.free i } : State).hand (some c) [.freed i],
      (exec_onRecord h holds reads find slot (removeServed_body c code)).trans (congrArg _ ?_), freed,
      Table.free_order _ _, pairs, fun j r other slot => ⟨fun paired => ?_, fun apart apart' => ?_⟩, fun j empty => ?_,
      frame, rfl⟩
    · rw [State.setService_table, withTable_hand_setService, Served.finish, State.answer_setService_taken]
    · show (s.table.free i).slots[j] = _
      rw [Table.free_other other, if_pos (by simpa using paired), slot]
      rfl
    · show (s.table.free i).slots[j] = _
      rw [Table.free_other other, if_neg (by simp [apart, apart']), slot]
    · by_cases same : j = i
      · subst same
        exact freed
      · have kept := others j same
        rw [empty] at kept
        exact Option.map_eq_none_iff.mp kept
  · have found : (allSlots.find? fun i => s.table.slots[i].isSome).getD 0 = low := by
      obtain ⟨empty, rfl⟩ | ⟨occupied, below⟩ := lowest
      · rw [allSlots_find?_none fun j => by simpa using empty j]
        rfl
      · rw [allSlots_find?_some (i := low) (by simpa [Option.isSome_iff_ne_none] using occupied)
          fun j hj => by simpa using below j hj]
        rfl
    refine ⟨s.boardCleared c, serve_authorised_answers_withoutPayload h holds ?_, fun j => ?_, rfl, rfl, rfl⟩
    · rw [clearBoardServed_taken, found]
    · simp [State.boardCleared]

/-- Settles O30: the rebase maps every record, and the new list holds the slots of the old one. -/
theorem tableRebaseLowersEveryMinute : Obligations.TableRebaseLowersEveryMinute := by
  intro rest s operates inbox
  obtain ⟨working, timed, pairs⟩ := s.table.rebase_spec
  refine ⟨s.tableRebased rest, exec_tableRebase operates inbox, working, timed, rfl, pairs, rfl, rfl, rfl, fun i none => ?_,
    fun i r slot => ⟨r.rebase, ?_, rfl, fun g state => ?_, fun g state => ?_, fun gone cancelled => ?_⟩, fun i => ?_,
    rfl⟩
  · show s.table.rebase.slots[i] = _
    rw [Table.rebase_slots, none]
    rfl
  · show s.table.rebase.slots[i] = _
    rw [Table.rebase_slots, slot]
    rfl
  · rw [Record.rebase, state]
    rfl
  · rw [Record.rebase, state]
    rfl
  · unfold Record.rebase
    cases state : r.state with
    | gone g => exact absurd state (gone g)
    | cancelled g => exact absurd state (cancelled g)
    | waiting | called | closing => rfl
  · exact Table.mem_foldr_insertOrdered _ _ _

end

section
/-! Reading the table (2.10), and its minute events (2.5). -/

namespace Sys2Proof.Machine

/-! ### The 39 bytes of a record (10.8) -/

theorem optRefBytes_length (x : Option TextRef) : (optRefBytes x).length = 3 := by
  cases x <;> rfl

theorem beOptMinute_length (x : Option Int) : (beOptMinute x).length = 2 := by
  cases x <;> rfl

theorem Table.recordBytes_length (t : Table) (i : Slot) (r : Record) : (t.recordBytes i r).length = 39 := by
  simp only [Table.recordBytes, List.length_append, optRefBytes_length, beOptMinute_length, padTo_length, beInt_length,
    List.length_cons, List.length_nil, refBytes, be16]
  cases r.lastDelay <;> rfl

theorem readRecord_taken {s : State} {c : Ctrl} {payload : List Byte} {i : Slot} {r : Record}
    (h : s.commanded c.port codeReadRecord payload) (slot : s.table.slots[i] = some r)
    (named : parseRecordName payload = some (.slot i) ∨
      ∃ code, parseRecordName payload = some (.code code) ∧ s.table.findCode code = some i) :
    exec (.readRecord c) s = .next (s.answered c.port codeReadRecord payload ⟨.done, s.table.recordBytes i r⟩) := by
  refine serve_answers h ?_
  have slot' : (s.setService c.port (.serving codeReadRecord payload .taken)).table.slots[i] = some r := by
    rw [State.setService_table]
    exact slot
  obtain reads | ⟨code, reads, find⟩ := named
  · rw [parsed, reads]
    have slot'' : s.table.slots[i.val] = some r := slot
    simp only [readRecordServed, State.setService_table, Fin.getElem_fin, slot'']
    rfl
  · rw [parsed, reads]
    simp only [readRecordServed]
    rw [withRecord_found (by rw [State.setService_table]; exact find) slot', State.setService_table]
    rfl

/-! ### READ LIST (R51) -/

theorem Table.entryBytes_length {t : Table} {i : Slot} (h : t.slots[i].isSome = true) :
    (t.entryBytes i).length = 10 := by
  obtain ⟨r, slot⟩ := Option.isSome_iff_exists.mp h
  have slot' : t.slots[i.val] = some r := slot
  simp only [Table.entryBytes, Fin.getElem_fin, slot', List.length_append, beInt_length, packCode_length,
    List.length_cons, List.length_nil]

theorem length_flatMap_const {α β : Type} {f : α → List β} {n : Nat} (l : List α)
    (h : ∀ x ∈ l, (f x).length = n) : (l.flatMap f).length = n * l.length := by
  rw [List.length_flatMap, List.map_congr_left h, List.map_const', List.sum_replicate, smul_eq_mul, Nat.mul_comm]

/-! ### Conflicts (R27) -/

theorem conflicting_iff (w : Nat) (a b : Record) : conflicting w a b = true ↔
    ∃ p : Nat, (a.state = .called ∨ a.state = .closing) ∧ (b.state = .called ∨ b.state = .closing) ∧
      a.platform = some p ∧ b.platform = some p ∧ (a.effective - b.effective).natAbs < w := by
  have at_platform (v : RecordState) : v.atPlatform = true ↔ v = .called ∨ v = .closing := by
    cases v <;> simp [RecordState.atPlatform]
  simp only [conflicting, Bool.and_eq_true, decide_eq_true_eq, at_platform, beq_iff_eq, Option.isSome_iff_exists]
  constructor
  · rintro ⟨⟨⟨⟨ha, hb⟩, p, here⟩, same⟩, near⟩
    exact ⟨p, ha, hb, here, same ▸ here, near⟩
  · rintro ⟨p, ha, hb, here, there, near⟩
    exact ⟨⟨⟨⟨ha, hb⟩, p, here⟩, here.trans there.symm⟩, near⟩

theorem Table.conflictPair_iff (t : Table) (w : Nat) (i j : Slot) : t.conflictPair w i j = true ↔
    ∃ a b : Record, t.slots[i] = some a ∧ t.slots[j] = some b ∧ conflicting w a b = true := by
  unfold Table.conflictPair
  cases ha : t.slots[i] with
  | none => simp
  | some a =>
    cases hb : t.slots[j] with
    | none => simp
    | some b => simp

/-! ### The evaluation and the conflict flag -/

/-- An evaluation whose record, where it is kept, has this conflict flag. -/
def Evaluation.withConflict (e : Evaluation) (b : Bool) : Evaluation :=
  { e with record := e.record.map fun x => { x with conflict := b } }

theorem moveToClosing_withConflict (n : Int) (r : Record) (b : Bool) :
    moveToClosing n { r with conflict := b } = (moveToClosing n r).withConflict b := by
  unfold moveToClosing
  rw [apply_ite (Evaluation.withConflict · b), apply_ite (Evaluation.withConflict · b)]
  rfl

theorem moveToCalled_withConflict (r : Record) (b : Bool) :
    moveToCalled { r with conflict := b } = (moveToCalled r).withConflict b := by
  unfold moveToCalled
  dsimp only
  split
  · rfl
  · split_ifs <;> rfl
  all_goals rfl

theorem moveToWaiting_withConflict (r : Record) (b : Bool) :
    moveToWaiting { r with conflict := b } = (moveToWaiting r).withConflict b := by
  unfold moveToWaiting
  dsimp only
  split_ifs <;> rfl

theorem lifecycle_withConflict (cfg : Settings) (n : Int) (r : Record) (b : Bool) :
    lifecycle cfg n { r with conflict := b } = (lifecycle cfg n r).withConflict b := by
  cases live : r.state.live with
  | true =>
    rw [lifecycle_of_live live, lifecycle_of_live (by exact live), moveToClosing_withConflict,
      moveToCalled_withConflict, moveToWaiting_withConflict, apply_ite (Evaluation.withConflict · b),
      apply_ite (Evaluation.withConflict · b), apply_ite (Evaluation.withConflict · b)]
    rfl
  | false =>
    obtain ⟨g, e⟩ | ⟨m, e⟩ := (RecordState.not_live_iff _).mp live
    · rw [lifecycle_gone e, lifecycle_gone (by exact e)]
      split_ifs <;> rfl
    · rw [lifecycle_cancelled e, lifecycle_cancelled (by exact e)]
      split_ifs <;> rfl

theorem flashExpiry_withConflict (cfg : Settings) (n : Int) (r : Record) (b : Bool) :
    flashExpiry cfg n { r with conflict := b } = { flashExpiry cfg n r with conflict := b } := by
  unfold flashExpiry
  dsimp only
  split
  · split_ifs <;> rfl
  · rfl

/-- The conflict flag is no part of an evaluation. -/
theorem evaluate_withConflict (cfg : Settings) (timed : Bool) (n : Int) (r : Record) (b : Bool) :
    evaluate cfg timed n { r with conflict := b } = (evaluate cfg timed n r).withConflict b := by
  unfold evaluate
  rw [flashExpiry_withConflict]
  cases timed with
  | true => exact lifecycle_withConflict cfg n _ b
  | false => rfl

/-- Records that agree apart from the flag are evaluated alike. -/
theorem evaluate_congr {a r : Record} (same : a.unflagged = r.unflagged) (cfg : Settings) (timed : Bool) (n : Int) :
    (evaluate cfg timed n a).record.map Record.unflagged = (evaluate cfg timed n r).record.map Record.unflagged ∧
    (evaluate cfg timed n a).withdraw = (evaluate cfg timed n r).withdraw ∧
    (evaluate cfg timed n a).ended = (evaluate cfg timed n r).ended ∧
    (evaluate cfg timed n a).issue = (evaluate cfg timed n r).issue ∧
    (evaluate cfg timed n a).changed = (evaluate cfg timed n r).changed := by
  have flagged : a = { r with conflict := a.conflict } :=
    congrArg (fun y : Record => { y with conflict := a.conflict }) same
  rw [flagged, evaluate_withConflict]
  exact ⟨Record.unflagged_comp (fun _ => a.conflict) _, rfl, rfl, rfl, rfl⟩

/-- What an evaluation issues carries what the record carries, freed or not (R25). -/
theorem evaluate_issue (cfg : Settings) (timed : Bool) (n : Int) (r : Record) (i : Slot) (k : CueKind) (m : Int) :
    ((evaluate cfg timed n r).record.getD r).issue i k none m = r.issue i k none m := by
  cases some : (evaluate cfg timed n r).record with
  | none => rfl
  | some x => exact (evaluate_carried cfg timed n r x some i).2 k m

/-! ### The evaluation of the whole list (R30) -/

/-- What the evaluation of a slot's record hands (R26). -/
def handedAt (cfg : Settings) (n : Int) (i : Slot) (r : Record) : List Notification :=
  withdrawal i (evaluate cfg true n r).withdraw ++ (evaluate cfg true n r).ended.toList.map (fun e => .ended i e) ++
    (evaluate cfg true n r).issue.toList.map (fun k => .issue (r.issue i k none n)) ++
    (if (evaluate cfg true n r).record.isNone then [.freed i] else [])

/-- What a slot hands at a minute event: nothing where it is free. -/
def Table.handedBy (t : Table) (cfg : Settings) (n : Int) (i : Slot) : List Notification :=
  (t.slots[i]).elim [] (handedAt cfg n i)

/-- Whether a slot's record changes its state or is freed at a minute event (R31). -/
def Table.changedBy (t : Table) (cfg : Settings) (n : Int) (i : Slot) : Bool :=
  (t.slots[i]).any fun r => (evaluate cfg true n r).changed

theorem evaluateSlot_occupied {t : Table} {i : Slot} {r : Record} (slot : t.slots[i] = some r) (cfg : Settings) (n : Int)
    (ns : List Notification) (changed : List Slot) :
    evaluateSlot cfg n (t, ns, changed) i =
      (((evaluate cfg true n r).record.elim (t.free i) (t.hold i)), ns ++ t.handedBy cfg n i,
        if t.changedBy cfg n i then changed ++ [i] else changed) := by
  have slot' : t.slots[i.val] = some r := slot
  simp only [evaluateSlot, Fin.getElem_fin, slot', Table.handedBy, Table.changedBy, Option.elim_some, Option.any_some,
    handedAt, ← evaluate_issue cfg true n r i _ n]
  cases (evaluate cfg true n r).record <;> rfl

theorem evaluateSlot_free {t : Table} {i : Slot} (slot : t.slots[i] = none) (cfg : Settings) (n : Int)
    (ns : List Notification) (changed : List Slot) : evaluateSlot cfg n (t, ns, changed) i = (t, ns, changed) := by
  have slot' : t.slots[i.val] = none := slot
  simp only [evaluateSlot, Fin.getElem_fin, slot']

/-- What a minute event's evaluation of the slots `l` makes of the table `t`. -/
structure Table.Evaluated (cfg : Settings) (n : Int) (l : List Slot) (t u : Table) : Prop where
  inside : ∀ i ∈ l, (u.slots[i]).map Record.unflagged =
    (t.slots[i]).bind fun r => (evaluate cfg true n r).record.map Record.unflagged
  outside : ∀ i, i ∉ l → (u.slots[i]).map Record.unflagged = (t.slots[i]).map Record.unflagged
  order : (∀ i ∈ t.order, t.slots[i].isSome = true) → u.order = t.order.filter fun i => u.slots[i].isSome
  pairs : ∀ p : Slot × Slot, u.slots[p.1].isSome = true → u.slots[p.2].isSome = true → (p ∈ u.pairs ↔ p ∈ t.pairs)
  frame : u = { t with slots := u.slots, order := u.order, pairs := u.pairs }

theorem Table.Evaluated.isSome {cfg : Settings} {n : Int} {l : List Slot} {t u : Table} (h : t.Evaluated cfg n l u)
    {i : Slot} (occupied : u.slots[i].isSome = true) : t.slots[i].isSome = true := by
  by_cases member : i ∈ l
  · have same := congrArg Option.isSome (h.inside i member)
    rw [Option.isSome_map, occupied] at same
    cases slot : t.slots[i] with
    | none => rw [slot] at same; exact absurd same nofun
    | some r => rfl
  · have same := congrArg Option.isSome (h.outside i member)
    rw [Option.isSome_map, Option.isSome_map] at same
    exact same ▸ occupied

theorem Table.Evaluated.refl (cfg : Settings) (n : Int) (t : Table) : t.Evaluated cfg n [] t where
  inside := nofun
  outside _ _ := rfl
  order occupied := (List.filter_eq_self.mpr occupied).symm
  pairs _ _ _ := Iff.rfl
  frame := rfl

/-- Slots that agree apart from the flag are evaluated alike. -/
theorem bind_evaluate_congr {x y : Option Record} (same : x.map Record.unflagged = y.map Record.unflagged)
    (cfg : Settings) (n : Int) :
    (x.bind fun r => (evaluate cfg true n r).record.map Record.unflagged) =
      y.bind fun r => (evaluate cfg true n r).record.map Record.unflagged := by
  obtain ⟨rfl, rfl⟩ | ⟨a, b, rfl, rfl, agree⟩ := map_unflagged_cases same
  · rfl
  · exact (evaluate_congr agree cfg true n).1

theorem Table.Evaluated.trans {cfg : Settings} {n : Int} {l l' : List Slot} {t u v : Table}
    (h : t.Evaluated cfg n l u) (k : u.Evaluated cfg n l' v) (apart : ∀ i ∈ l, i ∉ l') :
    t.Evaluated cfg n (l ++ l') v where
  inside i member := by
    obtain here | there := List.mem_append.mp member
    · exact (k.outside i (apart i here)).trans (h.inside i here)
    · exact (k.inside i there).trans (bind_evaluate_congr (h.outside i fun here => apart i here there) cfg n)
  outside i absent := by
    obtain ⟨here, there⟩ := not_or.mp (fun k => absent (List.mem_append.mpr k))
    exact (k.outside i there).trans (h.outside i here)
  order occupied := by
    have first := h.order occupied
    have second := k.order fun i member => by
      rw [first] at member
      exact (List.mem_filter.mp member).2
    rw [second, first, List.filter_filter]
    refine List.filter_congr fun i _ => ?_
    cases some : v.slots[i].isSome with
    | false => rfl
    | true => exact k.isSome some
  pairs p low high := (k.pairs p low high).trans (h.pairs p (k.isSome low) (k.isSome high))
  frame := by
    have first := h.frame
    have second := k.frame
    rw [first] at second
    exact second

theorem Table.hold_evaluated {t : Table} {i : Slot} {r x : Record} {cfg : Settings} {n : Int}
    (slot : t.slots[i] = some r) (kept : (evaluate cfg true n r).record = some x) :
    t.Evaluated cfg n [i] (t.hold i x) where
  inside j member := by
    obtain rfl := List.mem_singleton.mp member
    rw [slot, Option.bind_some, kept]
    exact congrArg _ (put_self _ _ _)
  outside j other := by
    have apart : j ≠ i := fun e => other (List.mem_singleton.mpr e)
    exact congrArg _ ((put_get _ _ _ _).trans (if_neg apart))
  order occupied := by
    refine (List.filter_eq_self.mpr fun j member => ?_).symm
    have held : (t.hold i x).slots[j] = if j = i then some x else t.slots[j] := put_get _ _ _ _
    rw [held]
    split
    · rfl
    · exact occupied j member
  pairs _ _ _ := Iff.rfl
  frame := rfl

theorem Table.free_evaluated {t : Table} {i : Slot} {r : Record} {cfg : Settings} {n : Int}
    (slot : t.slots[i] = some r) (freed : (evaluate cfg true n r).record = none) :
    t.Evaluated cfg n [i] (t.free i) where
  inside j member := by
    obtain rfl := List.mem_singleton.mp member
    rw [slot, Option.bind_some, freed, (t.free_spec j).1, Option.map_none]
  outside j other := (t.free_spec i).2.1 j fun e => other (List.mem_singleton.mpr e)
  order occupied := by
    rw [Table.free_order]
    refine List.filter_congr fun j member => ?_
    by_cases same : j = i
    · subst same
      rw [(t.free_spec j).1]
      simp
    · have kept := congrArg Option.isSome ((t.free_spec i).2.1 j same)
      rw [Option.isSome_map, Option.isSome_map, occupied j member] at kept
      rw [kept]
      simp [same]
  pairs p low high := by
    have apart (j : Slot) (occupied : (t.free i).slots[j].isSome = true) : j ≠ i := by
      rintro rfl
      rw [(t.free_spec j).1] at occupied
      exact absurd occupied nofun
    obtain ⟨-, -, -, pairs, -⟩ := t.free_spec i
    exact (pairs p).trans (and_iff_left ⟨apart _ low, apart _ high⟩)
  frame := (t.free_spec i).2.2.2.2

theorem handedAt_congr {a r : Record} (same : a.unflagged = r.unflagged) (cfg : Settings) (n : Int) (i : Slot) :
    handedAt cfg n i a = handedAt cfg n i r := by
  obtain ⟨record, withdraw, ended, issue, -⟩ := evaluate_congr same cfg true n
  have freed := congrArg Option.isNone record
  rw [Option.isNone_map, Option.isNone_map] at freed
  have carried (k : CueKind) : a.issue i k none n = r.issue i k none n := by
    have agree := congrArg (fun y : Record => y.issue i k none n) same
    exact agree
  simp only [handedAt, withdraw, ended, issue, freed, carried]

theorem Table.handedBy_congr {t u : Table} {i : Slot}
    (same : (u.slots[i]).map Record.unflagged = (t.slots[i]).map Record.unflagged) (cfg : Settings) (n : Int) :
    u.handedBy cfg n i = t.handedBy cfg n i := by
  unfold Table.handedBy
  obtain ⟨h, k⟩ | ⟨a, b, h, k, agree⟩ := map_unflagged_cases same
  · rw [h, k]
  · rw [h, k]
    exact handedAt_congr agree cfg n i

theorem Table.changedBy_congr {t u : Table} {i : Slot}
    (same : (u.slots[i]).map Record.unflagged = (t.slots[i]).map Record.unflagged) (cfg : Settings) (n : Int) :
    u.changedBy cfg n i = t.changedBy cfg n i := by
  unfold Table.changedBy
  obtain ⟨h, k⟩ | ⟨a, b, h, k, agree⟩ := map_unflagged_cases same
  · rw [h, k]
  · rw [h, k]
    exact (evaluate_congr agree cfg true n).2.2.2.2

/-- One slot of the list evaluated. -/
theorem evaluateSlot_spec (cfg : Settings) (n : Int) (t : Table) (ns : List Notification) (changed : List Slot)
    (i : Slot) :
    ∃ u, evaluateSlot cfg n (t, ns, changed) i =
        (u, ns ++ t.handedBy cfg n i, if t.changedBy cfg n i then changed ++ [i] else changed) ∧
      t.Evaluated cfg n [i] u := by
  cases slot : t.slots[i] with
  | none =>
    refine ⟨t, (evaluateSlot_free slot cfg n ns changed).trans ?_, fun j member => ?_, fun _ _ => rfl,
      (Table.Evaluated.refl cfg n t).order, fun _ _ _ => Iff.rfl, rfl⟩
    · rw [Table.handedBy, Table.changedBy, slot]
      simp
    · obtain rfl := List.mem_singleton.mp member
      rw [slot]
      rfl
  | some r =>
    refine ⟨_, evaluateSlot_occupied slot cfg n ns changed, ?_⟩
    cases kept : (evaluate cfg true n r).record with
    | none => exact Table.free_evaluated slot kept
    | some x => exact Table.hold_evaluated slot kept

/-- The list evaluated slot by slot: each record once, as it stood at the minute event (R30). -/
theorem evaluateSlots_spec (cfg : Settings) (n : Int) (l : List Slot) (nodup : l.Nodup) (t : Table)
    (ns : List Notification) (changed : List Slot) :
    ∃ u, l.foldl (evaluateSlot cfg n) (t, ns, changed) =
        (u, ns ++ l.flatMap (t.handedBy cfg n), changed ++ l.filter (t.changedBy cfg n)) ∧
      t.Evaluated cfg n l u := by
  induction l generalizing t ns changed with
  | nil => exact ⟨t, by simp, Table.Evaluated.refl cfg n t⟩
  | cons i l ih =>
    obtain ⟨fresh, nodup⟩ := List.nodup_cons.mp nodup
    obtain ⟨u, step, first⟩ := evaluateSlot_spec cfg n t ns changed i
    obtain ⟨v, rest, second⟩ := ih nodup u (ns ++ t.handedBy cfg n i) (if t.changedBy cfg n i then changed ++ [i] else changed)
    have kept (j : Slot) (member : j ∈ l) : (u.slots[j]).map Record.unflagged = (t.slots[j]).map Record.unflagged :=
      first.outside j fun same => fresh (List.mem_singleton.mp same ▸ member)
    refine ⟨v, ?_, first.trans second fun j same => List.mem_singleton.mp same ▸ fresh⟩
    rw [List.foldl_cons, step, rest, List.flatMap_congr fun j member => Table.handedBy_congr (kept j member) cfg n,
      List.filter_congr fun j member => Table.changedBy_congr (kept j member) cfg n]
    rw [List.flatMap_cons, List.append_assoc, List.filter_cons]
    split <;> simp

/-! ### The minute event (R30, R31) -/

theorem State.raiseAll_append (s : State) (es : List Event) (e : Event) :
    s.raiseAll (es ++ [e]) = (s.raiseAll es).raiseRouted e := by
  induction es generalizing s with
  | nil => rfl
  | cons x es ih => exact ih (s.raiseRouted x)

theorem lowestSlot_none {l : List Slot} (h : ∀ i, i ∉ l) : lowestSlot l = none := by
  rw [List.eq_nil_iff_forall_not_mem.mpr h]
  rfl

theorem lowestSlot_some {l : List Slot} {i : Slot} (member : i ∈ l) (lowest : ∀ j ∈ l, i ≤ j) :
    lowestSlot l = some i := by
  have least : l.min? = some i := List.min?_eq_some_iff.mpr ⟨member, lowest⟩
  cases l with
  | nil => exact absurd member List.not_mem_nil
  | cons j l => exact least

/-- The events of a minute event: the conflicts added, then BOARD_CHANGED with the lowest slot changed (R28, R31). -/
def minuteEvents (w : Nat) (t : Table) (changed : List Slot) : List Event :=
  t.conflictEvents w ++ (lowestSlot changed).toList.map .boardChanged

/-- A minute event at the table, from what the evaluation of the list makes of it. -/
theorem tableMinute_eq {n : Nat} {rest : List MinuteItem} {s : State} {t : Table} {ns : List Notification}
    {changed : List Slot}
    (evaluated : s.table.order.foldl (evaluateSlot s.settings n)
      ({ s.table with working := n, timed := true, inbox := rest }, [], []) = (t, ns, changed)) :
    tableMinute n rest s = { s.raiseAll (minuteEvents s.settings.conflictWindow t changed) with
      table := t.checked s.settings.conflictWindow
      cues := { s.cues with inbox := s.cues.inbox ++ ns.map fun x => .notice x none } } := by
  rw [← State.raiseAll_with, minuteEvents]
  simp only [tableMinute, evaluated]
  cases lowestSlot changed with
  | none =>
    rw [Option.toList_none, List.map_nil, List.append_nil]
    rfl
  | some i => exact (State.raiseAll_append _ _ _).symm

/-- The same, field by field. -/
theorem tableMinute_spec {n : Nat} {rest : List MinuteItem} {s : State} {t : Table} {ns : List Notification}
    {changed : List Slot}
    (evaluated : s.table.order.foldl (evaluateSlot s.settings n)
      ({ s.table with working := n, timed := true, inbox := rest }, [], []) = (t, ns, changed)) :
    (tableMinute n rest s).table = t.checked s.settings.conflictWindow ∧
    (tableMinute n rest s).cues.inbox = s.cues.inbox ++ ns.map (fun x => .notice x none) ∧
    (tableMinute n rest s).ports = (s.raiseAll (minuteEvents s.settings.conflictWindow t changed)).ports ∧
    s.changesTable (tableMinute n rest s) := by
  rw [tableMinute_eq evaluated]
  refine ⟨rfl, rfl, rfl, ?_⟩
  rw [← State.raiseAll_with]
  exact State.changesTable_raiseAll _ _ _ _

theorem exec_tableMinuteEvent {s : State} {n : Nat} {rest : List MinuteItem} (operates : s.operating)
    (h : s.table.inbox = .minute n :: rest) : exec .tableMinuteEvent s = .next (tableMinute n rest s) := by
  show execTableMinuteEvent s = _
  rw [execTableMinuteEvent, whenOperating_operating operates, h]

/-- The pairs a check adds, told from the pair set before the evaluation of the list: that loses none whose slots stay
occupied. -/
theorem Table.Evaluated.conflictEvents {cfg : Settings} {n : Int} {l : List Slot} {t u : Table}
    (h : t.Evaluated cfg n l u) (w : Nat) :
    u.conflictEvents w = ((u.checked w).pairs.filter fun p => decide (p ∉ t.pairs)).map (fun p =>
      Event.platformConflict (((u.checked w).slots[p.1].bind fun r => r.platform).getD 0) p.1 p.2) := by
  simp only [Table.checked_platform]
  rw [Table.conflictEvents, (u.checked_spec w).2.2.1]
  refine congrArg (List.map _) (List.filter_congr fun p member => ?_)
  obtain ⟨-, conflict⟩ := (u.mem_conflicts w p.1 p.2).mp member
  obtain ⟨a, b, low, high, -⟩ := (u.conflictPair_iff w p.1 p.2).mp conflict
  have same := h.pairs p (by rw [low]; rfl) (by rw [high]; rfl)
  by_cases kept : p ∈ t.pairs <;> simp [same, kept]

end Sys2Proof.Machine
end

section
open Sys2Proof Sys2Proof.Machine

/-- Settles O31: the bytes are those of `recordBytes` and `entryBytes`, rewritten in the layout of 10.8. -/
theorem tableReadsAnswerFromTheTable : Obligations.TableReadsAnswerFromTheTable := by
  refine ⟨fun c payload i r s h slot named => ?_, fun c start payload s h reads sound => ?_⟩
  · refine ⟨s.table.recordBytes i r, openBytes .lastDelay, openBytes .absentReferenceRow, readRecord_taken h slot named,
      Table.recordBytes_length _ _ _, rfl, rfl, ?_⟩
    rw [Table.recordBytes, packFlags_eight, refBytes, ← List.append_assoc]
    refine congr_arg₂ HAppend.hAppend (congr_arg₂ HAppend.hAppend (congr_arg₂ HAppend.hAppend
      (congr_arg₂ HAppend.hAppend (congr_arg₂ HAppend.hAppend (congr_arg₂ HAppend.hAppend (congr_arg₂ HAppend.hAppend
        ?_ ?_) rfl) ?_) rfl) rfl) ?_) ?_
    · refine (List.append_assoc _ _ _).trans (Eq.trans ?_ (List.append_assoc _ _ _).symm)
      refine congr_arg₂ HAppend.hAppend ?_ ?_
      · refine congr_arg₂ HAppend.hAppend (congr_arg₂ HAppend.hAppend (congr_arg₂ HAppend.hAppend
          (congr_arg₂ HAppend.hAppend rfl ?_) rfl) rfl) ?_
        · cases r.state <;> rfl
        · unfold Record.sortMinute
          cases r.state <;> rfl
      · cases r.previous <;> rfl
    · cases r.state <;> rfl
    · cases r.lastDelay <;> rfl
    · cases r.via <;> rfl
    · cases r.remark <;> rfl
  · have listed : ∀ i ∈ (s.table.order.drop (start - 1)).take 24, (s.table.entryBytes i).length = 10 := fun i hi =>
      Table.entryBytes_length ((sound.2 i).mp (List.mem_of_mem_drop (List.mem_of_mem_take hi)))
    have count : ((s.table.order.drop (start - 1)).take 24).length = min 24 (s.table.order.length - (start - 1)) := by
      rw [List.length_take, List.length_drop]
    refine ⟨[byte s.table.order.length, byte ((s.table.order.drop (start - 1)).take 24).length] ++
      ((s.table.order.drop (start - 1)).take 24).flatMap s.table.entryBytes, serve_answers h ?_, ?_, ?_, ?_⟩
    · rw [parsed, reads]
      simp only [readListServed, State.setService_table, done]
    · rw [count]
      rfl
    · rw [List.length_append, length_flatMap_const _ listed, count]
      rfl
    · rw [List.drop_append_of_le_length (by simp)]
      refine (List.nil_append _).trans (List.flatMap_congr fun i hi => ?_)
      rw [Table.entryBytes]
      cases s.table.slots[i] with
      | none => rfl
      | some r => cases r.state <;> rfl

end

section
open Sys2Proof Sys2Proof.Machine

/-- Settles O28: the list is evaluated slot by slot, then checked, and the events follow. -/
theorem tableMinuteEventEvaluatesEveryRecord : Obligations.TableMinuteEventEvaluatesEveryRecord := by
  refine ⟨fun t w i j => ?_, fun n rest s operates inbox sound => ?_⟩
  · rw [Table.conflictPair_iff]
    simp only [conflicting_iff]
    constructor
    · rintro ⟨a, b, ha, hb, p, h⟩
      exact ⟨a, b, p, ha, hb, h⟩
    · rintro ⟨a, b, p, ha, hb, h⟩
      exact ⟨a, b, ha, hb, p, h⟩
  obtain ⟨nodup, listed⟩ := sound
  obtain ⟨u, fold, evaluated⟩ := evaluateSlots_spec s.settings n s.table.order nodup
    { s.table with working := n, timed := true, inbox := rest } [] []
  have exec_eq := exec_tableMinuteEvent operates inbox
  obtain ⟨table, cues, ports, changes⟩ := tableMinute_spec fold
  generalize tableMinute n rest s = t at *
  have flags := u.checked_flag s.settings.conflictWindow
  have ascending := u.conflicts_ascending s.settings.conflictWindow
  have events := evaluated.conflictEvents s.settings.conflictWindow
  obtain ⟨unflagged, occupied, pairs, frame⟩ := u.checked_spec s.settings.conflictWindow
  have member := u.mem_conflicts s.settings.conflictWindow
  have conflict := fun i j => Table.conflictPair_unflagged (u.checked s.settings.conflictWindow) u
    s.settings.conflictWindow i j (unflagged i) (unflagged j)
  have listed_order := evaluated.order fun i h => (listed i).mp h
  have whole := evaluated.frame
  rw [← table] at flags events unflagged occupied pairs frame conflict
  refine ⟨t, u.conflictEvents s.settings.conflictWindow, exec_eq, ?_, ?_, ?_, fun i empty => ?_,
    fun i r slot => ?_, ?_, ?_, fun i j => ?_, ?_, flags, events, fun still => ?_, fun low r slot moved lowest => ?_,
    changes⟩
  · rw [frame, whole]
  · rw [frame, whole]
  · rw [frame, whole]
  · have outside := evaluated.outside i fun h => absurd ((listed i).mp h) (by simp [empty])
    have kept := (unflagged i).trans outside
    rw [show ({ s.table with working := (n : Int), timed := true, inbox := rest } : Table).slots[i] = none from empty]
      at kept
    exact Option.map_eq_none_iff.mp kept
  · rw [unflagged, evaluated.inside i ((listed i).mpr (by simp [slot])),
      show ({ s.table with working := (n : Int), timed := true, inbox := rest } : Table).slots[i] = some r from slot]
    rfl
  · rw [frame]
    exact listed_order.trans (List.filter_congr fun i _ => by rw [occupied i])
  · rw [cues, List.nil_append]
    refine congrArg (fun l => s.cues.inbox ++ List.map _ l) (List.flatMap_congr fun i _ => ?_)
    rw [Table.handedBy]
    cases s.table.slots[i] with
    | none => rfl
    | some r =>
      rw [Option.elim_some, handedAt, withdrawal]
      exact congr_arg₂ HAppend.hAppend rfl (if_congr Option.isNone_iff_eq_none rfl rfl)
  · rw [pairs, member, conflict]
  · rw [pairs]
    exact ascending
  · rw [ports, minuteEvents, lowestSlot_none, Option.toList_none, List.map_nil, List.append_nil]
    intro i h
    obtain ⟨-, moved⟩ := List.mem_filter.mp h
    obtain ⟨r, slot, moved⟩ := (Option.any_eq_true _ _).mp moved
    exact absurd ((still i r slot).symm.trans moved) nofun
  · rw [ports, minuteEvents, lowestSlot_some (i := low)]
    · rfl
    · exact List.mem_filter.mpr ⟨(listed low).mpr (by simp [slot]), (Option.any_eq_true _ _).mpr ⟨r, slot, moved⟩⟩
    · intro i h
      obtain ⟨-, moved⟩ := List.mem_filter.mp h
      obtain ⟨r, slot, moved⟩ := (Option.any_eq_true _ _).mp moved
      exact lowest i r slot moved

end

section
/-! The Cue Scheduler's notifications (8.1, 8.3 to 8.5): issues, refreshes, withdrawals and endings. -/

namespace Sys2Proof.Machine

/-! ### Raising hangs on the ports alone -/

theorem State.raise_ports {s t : State} (h : s.ports = t.ports) (p : Port) (e : Event) :
    (s.raise p e).ports = (t.raise p e).ports := by
  cases p <;> simp only [State.raise, State.setPort, State.port, h]

theorem State.raiseRouted_withCues (s : State) (c : Cues) (e : Event) :
    ({ s with cues := c } : State).raiseRouted e = { s.raiseRouted e with cues := c } := by
  rw [show ({ s with cues := c } : State).raiseRouted e = ({ s with table := s.table, cues := c } : State).raiseAll [e]
    from rfl, State.raiseAll_with]
  apply State.eq_of_fields <;> simp [State.raiseAll]

/-! ### Kinds and classes -/

theorem CueKind.holdsRemark_iff (k : CueKind) : k.holdsRemark = true ↔ k = .delay ∨ k = .cancel := by
  cases k <;> simp [CueKind.holdsRemark]

theorem CueKind.cls_eq_safety_iff (k : CueKind) : k.cls = .safety ↔ k = .notice := by
  cases k <;> simp [CueKind.cls]

theorem Cues.setQueue_withInbox (c : Cues) (k : CueClass) (l : List Cue) (rest : List CueMessage) :
    ({ c with inbox := rest } : Cues).setQueue k l = { c.setQueue k l with inbox := rest } := by
  cases k <;> rfl

theorem Cues.queue_withInbox (c : Cues) (k : CueClass) (rest : List CueMessage) :
    ({ c with inbox := rest } : Cues).queue k = c.queue k := by
  cases k <;> rfl

/-! ### Free handles (R135) -/

theorem Cues.mem_allPending (c : Cues) (x : Cue) : x ∈ c.allPending ↔ ∃ j, x ∈ c.queue j := by
  simp only [Cues.allPending, List.mem_append]
  constructor
  · rintro (((h | h) | h) | h)
    exacts [⟨.safety, h⟩, ⟨.platform, h⟩, ⟨.delay, h⟩, ⟨.routine, h⟩]
  · rintro ⟨j, h⟩
    cases j with
    | safety => exact .inl (.inl (.inl h))
    | platform => exact .inl (.inl (.inr h))
    | delay => exact .inl (.inr h)
    | routine => exact .inr h

theorem Cues.handleHeld_iff (c : Cues) (h : Nat) : c.handleHeld h = true ↔
    (∃ (j : CueClass) (x : Cue), x ∈ c.queue j ∧ x.handle = h) ∨ ∃ x, c.playing = some x ∧ x.cue.handle = h := by
  simp only [Cues.handleHeld, Bool.or_eq_true, List.any_eq_true, Option.any_eq_true, beq_iff_eq, Cues.mem_allPending]
  refine or_congr ⟨?_, ?_⟩ Iff.rfl
  · rintro ⟨x, ⟨j, member⟩, same⟩
    exact ⟨j, x, member, same⟩
  · rintro ⟨j, x, member, same⟩
    exact ⟨x, ⟨j, member⟩, same⟩

/-- The handles that some cue holds. -/
def Cues.heldHandles (c : Cues) : List Nat :=
  c.allPending.map Cue.handle ++ c.playing.toList.map fun x => x.cue.handle

theorem Cues.handleHeld_mem {c : Cues} {h : Nat} (held : c.handleHeld h = true) : h ∈ c.heldHandles := by
  obtain ⟨j, x, member, same⟩ | ⟨x, playing, same⟩ := (c.handleHeld_iff h).mp held
  · exact List.mem_append_left _ (List.mem_map.mpr ⟨x, (c.mem_allPending x).mpr ⟨j, member⟩, same⟩)
  · exact List.mem_append_right _ (by simp [playing, same])

theorem Cues.heldHandles_length {c : Cues} (bounded : ∀ k, (c.queue k).length ≤ 16) : c.heldHandles.length ≤ 65 := by
  have h1 : c.safety.length ≤ 16 := bounded .safety
  have h2 : c.platform.length ≤ 16 := bounded .platform
  have h3 : c.delay.length ≤ 16 := bounded .delay
  have h4 : c.routine.length ≤ 16 := bounded .routine
  have h5 : c.playing.toList.length ≤ 1 := by cases c.playing <;> simp
  simp only [Cues.heldHandles, Cues.allPending, List.length_append, List.length_map]
  omega

/-- The handles from the counter on, each of 1 to 255 once. -/
def handlesFrom (n : Nat) : List Nat := (List.range 255).map fun i => (n - 1 + i) % 255 + 1

theorem handlesFrom_nodup (n : Nat) : (handlesFrom n).Nodup := by
  refine List.nodup_range.map_on fun i hi j hj same => ?_
  rw [List.mem_range] at hi hj
  omega

/-- With the queues within their bound the counter, or a handle after it, is free (R135, R136). -/
theorem Cues.freeHandle_spec {c : Cues} (bounded : ∀ k, (c.queue k).length ≤ 16) :
    1 ≤ c.freeHandle ∧ c.freeHandle ≤ 255 ∧ c.handleHeld c.freeHandle = false ∧
    ∃ d, c.freeHandle = (c.nextHandle - 1 + d) % 255 + 1 ∧
      ∀ e, e < d → c.handleHeld ((c.nextHandle - 1 + e) % 255 + 1) = true := by
  have found : ∃ h, (handlesFrom c.nextHandle).find? (fun h => !c.handleHeld h) = some h := by
    by_contra none
    have held : ∀ h ∈ handlesFrom c.nextHandle, h ∈ c.heldHandles := fun h member => by
      have all := List.find?_eq_none.mp (Option.eq_none_iff_forall_ne_some.mpr fun h e => none ⟨h, e⟩) h member
      exact Cues.handleHeld_mem (by simpa using all)
    have long := (List.subperm_of_subset (handlesFrom_nodup _) held).length_le
    have short := Cues.heldHandles_length bounded
    rw [handlesFrom, List.length_map, List.length_range] at long
    omega
  obtain ⟨h, found⟩ := found
  have free : c.freeHandle = h := by
    rw [Cues.freeHandle, show (List.range 255).map _ = handlesFrom c.nextHandle from rfl, found]
    rfl
  obtain ⟨unheld, d, lt, here, before⟩ := List.find?_eq_some_iff_getElem.mp found
  have place (e : Nat) (he : e < (handlesFrom c.nextHandle).length) :
      (handlesFrom c.nextHandle)[e] = (c.nextHandle - 1 + e) % 255 + 1 := by
    simp [handlesFrom]
  rw [place] at here
  rw [free]
  refine ⟨by omega, by omega, by simpa using unheld, d, here.symm, fun e less => ?_⟩
  have held := before e less
  rw [place] at held
  simpa using held

/-! ### Issues (R134, R139, R140) -/

theorem exec_cueIssue {s : State} {i : Issue} {o : Option Ctrl} {rest : List CueMessage} (operates : s.operating)
    (h : s.cues.inbox = .notice (.issue i) o :: rest) : exec .cueIssue s = .next (issueCue i (s.withCueInbox rest)) := by
  show execCueIssue s = _
  rw [execCueIssue, whenOperating_operating operates, h]

theorem Issue.cue_eq (i : Issue) (h : Nat) : i.cue h = {
    handle := h, kind := i.kind, slot := some i.slot, code := i.code, platform := i.platform
    previous := if i.kind = .platformChange then i.previous else none
    effective := some i.effective, delay := if i.kind = .delay then some i.delay else none
    destination := some i.destination
    remark := if i.kind = .delay ∨ i.kind = .cancel then i.remark else none
    text := none, repeats := 0, issued := i.issued } := by
  rw [Issue.cue, if_congr (CueKind.holdsRemark_iff i.kind) rfl rfl]

theorem Issue.matchesCue_iff (i : Issue) (q : Cue) :
    i.matchesCue q = true ↔ q.kind = i.kind ∧ q.slot = some i.slot := by
  simp [Issue.matchesCue]

theorem Issue.replace_matching {i : Issue} {q : Cue} (kind : q.kind = i.kind) (slot : q.slot = some i.slot) :
    i.replace q = { i.cue q.handle with code := q.code } := by
  rw [Issue.replace, if_pos ((i.matchesCue_iff q).mpr ⟨kind, slot⟩)]

theorem Issue.replace_other {i : Issue} {q : Cue} (h : q.kind ≠ i.kind ∨ q.slot ≠ some i.slot) : i.replace q = q := by
  refine if_neg fun matching => ?_
  obtain ⟨kind, slot⟩ := (i.matchesCue_iff q).mp matching
  obtain h | h := h
  · exact h kind
  · exact h slot

theorem Issue.replace_handle (i : Issue) (q : Cue) : (i.replace q).handle = q.handle := by
  unfold Issue.replace
  split <;> rfl

/-- A cue to replace is pending: it is replaced in place, and nothing is raised (R139). -/
theorem issueCue_replaces {i : Issue} {s : State} (rest : List CueMessage)
    (pending : ∃ q ∈ s.cues.queue i.kind.cls, q.kind = i.kind ∧ q.slot = some i.slot) :
    issueCue i (s.withCueInbox rest) = { s with cues := {
      s.cues.setQueue i.kind.cls ((s.cues.queue i.kind.cls).map i.replace) with inbox := rest } } := by
  obtain ⟨q, member, same⟩ := pending
  have matching : (s.cues.queue i.kind.cls).any i.matchesCue = true :=
    List.any_eq_true.mpr ⟨q, member, (i.matchesCue_iff q).mpr same⟩
  simp only [issueCue, State.withCueInbox, Cues.queue_withInbox, Cues.setQueue_withInbox, matching, if_true]

/-- The scheduler with the head of its inbox taken and a handle assigned (R135). -/
def State.handleAssigned (s : State) (rest : List CueMessage) : State :=
  { s with cues := { s.cues with inbox := rest, nextHandle := handleAfter s.cues.freeHandle } }

theorem State.handleAssigned_queue (s : State) (rest : List CueMessage) (k : CueClass) :
    (s.handleAssigned rest).cues.queue k = s.cues.queue k := by
  cases k <;> rfl

theorem State.handleAssigned_setQueue (s : State) (rest : List CueMessage) (k : CueClass) (l : List Cue) :
    (s.handleAssigned rest).cues.setQueue k l =
      { s.cues.setQueue k l with inbox := rest, nextHandle := handleAfter s.cues.freeHandle } := by
  cases k <;> rfl

theorem issueCue_fresh {i : Issue} {s : State} (rest : List CueMessage)
    (fresh : ∀ q ∈ s.cues.queue i.kind.cls, q.kind ≠ i.kind ∨ q.slot ≠ some i.slot) :
    issueCue i (s.withCueInbox rest) = if (s.cues.queue i.kind.cls).length < 16 then
        (s.handleAssigned rest).appendCue (i.cue s.cues.freeHandle)
      else (s.withCueInbox rest).dropCue i.kind.cls := by
  have unmatched : (s.cues.queue i.kind.cls).any i.matchesCue = false := by
    refine List.any_eq_false.mpr fun q member matching => ?_
    obtain ⟨kind, slot⟩ := (i.matchesCue_iff q).mp matching
    exact (fresh q member).elim (fun h => h kind) fun h => h slot
  simp only [issueCue, State.withCueInbox, Cues.queue_withInbox, unmatched, if_false, Bool.false_eq_true]
  rfl

/-- A cue appended to its class: the queue, the events of R140, and nothing else. -/
theorem State.appendCue_issued {s : State} {q : Cue} (kind : q.kind ≠ .notice) :
    (s.appendCue q).cues = s.cues.setQueue q.kind.cls (s.cues.queue q.kind.cls ++ [q]) ∧
    s.appendCue q = { s with cues := (s.appendCue q).cues, ports := (s.appendCue q).ports } ∧
    (s.cues.playing = none → (s.appendCue q).ports = (s.raise .cp .cueReady).ports) ∧
    (s.cues.playing ≠ none → (s.appendCue q).ports = s.ports) := by
  obtain ⟨cues, frame, playing, idle⟩ := s.appendCue_spec q
  exact ⟨cues, frame, idle kind, playing kind⟩

theorem Cues.countDrop_spec {c : Cues} {k : CueClass} (h : k ≠ .safety) : c.countDrop k = { c with
    dropPlatform := if k = .platform ∧ c.dropPlatform ≠ 0xFFFF then c.dropPlatform + 1 else c.dropPlatform
    dropDelay := if k = .delay ∧ c.dropDelay ≠ 0xFFFF then c.dropDelay + 1 else c.dropDelay
    dropRoutine := if k = .routine ∧ c.dropRoutine ≠ 0xFFFF then c.dropRoutine + 1 else c.dropRoutine } := by
  have counted (n : Counter) : increment n = if n ≠ 0xFFFF then n + 1 else n := (ite_not _ _ _).symm
  cases k with
  | safety => exact absurd rfl h
  | platform => simp [Cues.countDrop, counted]
  | delay => simp [Cues.countDrop, counted]
  | routine => simp [Cues.countDrop, counted]

/-! ### Supersession, refreshes and withdrawals (R141 to R145) -/

/-- What superseding does at the playing position and at the Cue Port. -/
def State.Supersedes (s : State) (p : Cue → Bool) (t : State) : Prop :=
  (s.cues.playing = none → t.cues.playing = none ∧ t.ports = s.ports) ∧
  (∀ x, s.cues.playing = some x → p x.cue = true → x.superseded = false →
    t.cues.playing = some { x with superseded := true } ∧
    t.ports = (s.raise .cp (.cueSuperseded x.cue.handle)).ports) ∧
  (∀ x, s.cues.playing = some x → (p x.cue = false ∨ x.superseded = true) →
    t.cues.playing = some x ∧ t.ports = s.ports)

theorem State.supersedeIf_supersedes (s : State) (p : Cue → Bool) : s.Supersedes p (s.supersedeIf p) := by
  obtain ⟨taken, left⟩ := s.supersedeIf_spec p
  refine ⟨fun idle => ?_, fun x plays named fresh => ?_, fun x plays spared => ?_⟩
  · rw [left fun x plays => nomatch idle.symm.trans plays]
    exact ⟨idle, rfl⟩
  · rw [taken x plays named fresh]
    exact ⟨congrArg Cues.playing (State.raise_cues _ _ _), State.raise_ports rfl _ _⟩
  · rw [left fun y other => Option.some.inj (plays.symm.trans other) ▸ spared]
    exact ⟨plays, rfl⟩

theorem State.supersedeIf_frame (s : State) (p : Cue → Bool) : s.supersedeIf p = { s with
    ports := (s.supersedeIf p).ports
    cues := { s.cues with playing := (s.supersedeIf p).cues.playing } } := by
  unfold State.supersedeIf
  split
  · rfl
  · split
    · apply State.eq_of_fields <;> simp
    · rfl

/-- Superseding hangs on the playing position and the ports alone. -/
theorem State.Supersedes.of_same {s u t : State} {p : Cue → Bool} (h : u.Supersedes p t)
    (playing : u.cues.playing = s.cues.playing) (ports : u.ports = s.ports) : s.Supersedes p t := by
  obtain ⟨idle, taken, spared⟩ := h
  rw [playing, ports] at idle
  refine ⟨idle, fun x plays named fresh => ?_, fun x plays other => ?_⟩
  · obtain ⟨now, raised⟩ := taken x (playing.trans plays) named fresh
    exact ⟨now, raised.trans (State.raise_ports ports _ _)⟩
  · obtain ⟨now, kept⟩ := spared x (playing.trans plays) other
    exact ⟨now, kept.trans ports⟩

theorem toNat_increment (c : Counter) : (increment c).toNat = min 65535 (c.toNat + 1) := by
  have bound := c.isLt
  unfold increment
  split
  · next full => rw [full]; rfl
  · next room => bv_omega

theorem toNat_incrementBy (n : Nat) (c : Counter) : (incrementBy n c).toNat = min 65535 (c.toNat + n) := by
  induction n generalizing c with
  | zero =>
    have bound := c.isLt
    show c.toNat = _
    omega
  | succ n ih =>
    rw [incrementBy, ih, toNat_increment]
    omega

/-- A withdrawal: the queues filtered and counted, and the playing cue superseded where it is named (R143). -/
theorem withdrawCues_spec (p : Cue → Bool) (rest : List CueMessage) (s : State) :
    ∃ t : State, withdrawCues p (s.withCueInbox rest) = t ∧ t.cues.safety = s.cues.safety ∧
      (∀ k, k ≠ .safety → t.cues.queue k = (s.cues.queue k).filter fun q => !p q) ∧
      t.cues.withdrawnPlatform.toNat = min 65535 (s.cues.withdrawnPlatform.toNat + s.cues.platform.countP p) ∧
      t.cues.withdrawnDelay.toNat = min 65535 (s.cues.withdrawnDelay.toNat + s.cues.delay.countP p) ∧
      t.cues.withdrawnRoutine.toNat = min 65535 (s.cues.withdrawnRoutine.toNat + s.cues.routine.countP p) ∧
      s.Supersedes p t ∧
      t = { s with ports := t.ports, cues := { s.cues with
        platform := t.cues.platform, delay := t.cues.delay, routine := t.cues.routine, playing := t.cues.playing
        withdrawnPlatform := t.cues.withdrawnPlatform, withdrawnDelay := t.cues.withdrawnDelay
        withdrawnRoutine := t.cues.withdrawnRoutine, inbox := rest } } := by
  have supersedes := State.supersedeIf_supersedes
    { s.withCueInbox rest with cues := (s.withCueInbox rest).cues.withdraw p } p
  have frame := State.supersedeIf_frame { s.withCueInbox rest with cues := (s.withCueInbox rest).cues.withdraw p } p
  refine ⟨withdrawCues p (s.withCueInbox rest), rfl, ?_⟩
  unfold withdrawCues
  replace supersedes := supersedes.of_same (s := s) rfl rfl
  generalize State.supersedeIf _ _ = t at *
  generalize t.ports = ports at frame
  generalize t.cues.playing = playing at frame
  subst frame
  refine ⟨rfl, fun k named => ?_, toNat_incrementBy _ _, toNat_incrementBy _ _, toNat_incrementBy _ _, supersedes, rfl⟩
  cases k with
  | safety => exact absurd rfl named
  | platform => rfl
  | delay => rfl
  | routine => rfl

/-- A refresh of one cue of a slot. -/
def Refresh.onCue (r : Refresh) (q : Cue) : Cue := if q.slot = some r.slot then q.refreshed r else q

theorem Cues.queue_refresh (c : Cues) (r : Refresh) (k : CueClass) :
    (c.refresh r).queue k = (c.queue k).map r.onCue := by
  cases k <;> rfl

theorem Cue.refreshed_eq (r : Refresh) (q : Cue) : q.refreshed r = { q with
    platform := r.platform, effective := some r.effective
    delay := if q.kind = .delay then some r.delay else q.delay
    remark := if q.kind = .delay ∨ q.kind = .cancel then r.remark else q.remark } := by
  simp only [Cue.refreshed, CueKind.holdsRemark_iff]

/-- A cue is at a refresh's values where every field it carries equals the refresh's (R142). -/
theorem Cue.refreshed_eq_self_iff (r : Refresh) (q : Cue) : q.refreshed r = q ↔
    q.platform = r.platform ∧ q.effective = some r.effective ∧ (q.kind = .delay → q.delay = some r.delay) ∧
      ((q.kind = .delay ∨ q.kind = .cancel) → q.remark = r.remark) := by
  rw [Cue.refreshed_eq]
  constructor
  · intro same
    refine ⟨(congrArg Cue.platform same).symm, (congrArg Cue.effective same).symm, fun kind => ?_, fun kind => ?_⟩
    · exact (congrArg Cue.delay same).symm.trans (if_pos kind)
    · exact (congrArg Cue.remark same).symm.trans (if_pos kind)
  · rintro ⟨platform, effective, delay, remark⟩
    rw [← platform, ← effective, ite_eq_right_iff.mpr fun kind => (delay kind).symm,
      ite_eq_right_iff.mpr fun kind => (remark kind).symm]

/-- Whether a refresh supersedes a playing cue: it is of the slot, and a field it carries differs (R142). -/
theorem Cue.refresh_differs (r : Refresh) (q : Cue) : (q.ofSlot r.slot && q.refreshed r != q) =
    decide (q.slot = some r.slot ∧ q.refreshed r ≠ q) := by
  rw [Bool.eq_iff_iff]
  simp [Cue.ofSlot]

theorem exec_cueRefresh {r : Refresh} {o : Option Ctrl} {rest : List CueMessage} {s : State} (operates : s.operating)
    (inbox : s.cues.inbox = .notice (.refresh r) o :: rest) :
    exec .cueRefresh s = .next (refreshCues r (s.withCueInbox rest)) := by
  show execCueRefresh s = _
  rw [execCueRefresh, whenOperating_operating operates, inbox]

theorem exec_cueWithdraw {slot : Slot} {kinds : List CueKind} {o : Option Ctrl} {rest : List CueMessage} {s : State}
    (operates : s.operating) (inbox : s.cues.inbox = .notice (.withdraw slot kinds) o :: rest) :
    exec .cueWithdraw s =
      .next (withdrawCues (fun q => q.ofSlot slot && kinds.contains q.kind) (s.withCueInbox rest)) := by
  show execCueWithdraw s = _
  rw [execCueWithdraw, whenOperating_operating operates, inbox]

theorem exec_slotFreed {slot : Slot} {o : Option Ctrl} {rest : List CueMessage} {s : State}
    (operates : s.operating) (inbox : s.cues.inbox = .notice (.freed slot) o :: rest) :
    exec .slotFreed s = .next (withdrawCues (Cue.ofSlot slot) (s.withCueInbox rest)) := by
  show execSlotFreed s = _
  rw [execSlotFreed, whenOperating_operating operates, inbox]

theorem exec_boardCleared {o : Option Ctrl} {rest : List CueMessage} {s : State}
    (operates : s.operating) (inbox : s.cues.inbox = .notice .cleared o :: rest) :
    exec .boardCleared s = .next (withdrawCues (fun q => q.kind != .notice) (s.withCueInbox rest)) := by
  show execBoardCleared s = _
  rw [execBoardCleared, whenOperating_operating operates, inbox]

theorem exec_recordEnded {slot : Slot} {how : Ending} {o : Option Ctrl} {rest : List CueMessage} {s : State}
    (operates : s.operating) (inbox : s.cues.inbox = .notice (.ended slot how) o :: rest) :
    exec .recordEnded s = .next ((s.withCueInbox rest).supersedeIf (Cue.ofSlot slot)) := by
  show execRecordEnded s = _
  rw [execRecordEnded, whenOperating_operating operates, inbox]

/-- The three notifications that remove cues are the withdrawal of the cues they name. -/
theorem exec_withdrawal {c : Instr} {n : Notification} {o : Option Ctrl} {rest : List CueMessage} {named : Cue → Bool}
    {s : State} (operates : s.operating) (inbox : s.cues.inbox = .notice n o :: rest)
    (which : (c = .cueWithdraw ∧ ∃ slot kinds, n = .withdraw slot kinds ∧
        ∀ q : Cue, named q = decide (q.slot = some slot ∧ q.kind ∈ kinds)) ∨
      (c = .slotFreed ∧ ∃ slot, n = .freed slot ∧ ∀ q : Cue, named q = decide (q.slot = some slot)) ∨
      (c = .boardCleared ∧ n = .cleared ∧ ∀ q : Cue, named q = decide (q.kind ≠ .notice))) :
    exec c s = .next (withdrawCues named (s.withCueInbox rest)) := by
  obtain ⟨rfl, slot, kinds, rfl, names⟩ | ⟨rfl, slot, rfl, names⟩ | ⟨rfl, rfl, names⟩ := which
  · have same : named = fun q => q.ofSlot slot && kinds.contains q.kind := by
      funext q
      rw [names, Bool.eq_iff_iff]
      simp [Cue.ofSlot]
    exact same ▸ exec_cueWithdraw operates inbox
  · have same : named = Cue.ofSlot slot := by
      funext q
      rw [names, Bool.eq_iff_iff]
      simp [Cue.ofSlot]
    exact same ▸ exec_slotFreed operates inbox
  · have same : named = fun q => q.kind != .notice := by
      funext q
      rw [names, Bool.eq_iff_iff]
      simp
    exact same ▸ exec_boardCleared operates inbox

end Sys2Proof.Machine
end

section
open Sys2Proof Sys2Proof.Machine

/-- Settles O47: the three cases of R139, each with the cue it leaves. -/
theorem issuesReplaceAppendOrDrop : Obligations.IssuesReplaceAppendOrDrop := by
  rintro i o rest k s operates inbox rfl kind
  have served := exec_cueIssue operates inbox
  refine ⟨fun pending => ?_, fun fresh => ⟨fun room => ?_, fun full => ?_⟩⟩
  · have queue : ({ s.cues.setQueue i.kind.cls ((s.cues.queue i.kind.cls).map i.replace) with
        inbox := rest } : Cues).queue i.kind.cls = (s.cues.queue i.kind.cls).map i.replace := by
      rw [Cues.queue_withInbox, Cues.queue_setQueue, if_pos rfl]
    rw [issueCue_replaces rest pending] at served
    refine ⟨_, served, ?_, fun n q here => ⟨fun other => ?_, fun same slot => ?_⟩, ?_⟩
    · rw [queue, List.map_map]
      exact List.map_congr_left fun q _ => i.replace_handle q
    · rw [queue, List.getElem?_map, here, Option.map_some, Issue.replace_other other]
    · rw [queue, List.getElem?_map, here, Option.map_some, Issue.replace_matching same slot, Issue.cue_eq]
    · rw [queue]
  · rw [issueCue_fresh rest fresh, if_pos room] at served
    obtain ⟨cues, frame, idle, playing⟩ := State.appendCue_issued (s := s.handleAssigned rest)
      (q := i.cue s.cues.freeHandle) kind
    generalize State.appendCue _ _ = t at *
    rw [State.handleAssigned_queue, State.handleAssigned_setQueue] at cues
    have queue : t.cues.queue i.kind.cls = s.cues.queue i.kind.cls ++ [i.cue s.cues.freeHandle] := by
      rw [cues]
      exact (Cues.queue_setQueue _ _ _ _).trans (if_pos rfl)
    refine ⟨t, i.cue s.cues.freeHandle, served, queue, rfl, ?_, Issue.cue_eq _ _, fun bounded => ?_, ?_, fun none => ?_,
      fun some => ?_⟩
    · rw [cues]
      rfl
    · obtain ⟨low, high, unheld, d, here, before⟩ := Cues.freeHandle_spec bounded
      have nobody {p : Prop} (h) : p := absurd ((s.cues.handleHeld_iff s.cues.freeHandle).mpr h) (by simp [unheld])
      exact ⟨low, high, fun j x member same => nobody (.inl ⟨j, x, member, same⟩),
        fun x plays same => nobody (.inr ⟨x, plays, same⟩), d, here,
        fun e less => (s.cues.handleHeld_iff _).mp (before e less)⟩
    · have handle : t.cues.nextHandle = handleAfter s.cues.freeHandle := by rw [cues]
      rw [queue, handle]
      exact frame.trans (congrArg (fun c : Cues => ({ s with ports := t.ports, cues := c } : State)) cues)
    · exact (idle none).trans (State.raise_ports rfl _ _)
    · exact playing some
  · rw [issueCue_fresh rest fresh, if_neg (by omega)] at served
    have class_ : i.kind.cls ≠ .safety := fun h => kind ((CueKind.cls_eq_safety_iff _).mp h)
    obtain ⟨cues, -, frame⟩ := (s.withCueInbox rest).dropCue_spec i.kind.cls
    rw [Cues.countDrop_spec class_] at cues
    have ports := congrArg State.ports
      (State.raiseRouted_withCues s ((s.withCueInbox rest).cues.countDrop i.kind.cls) (.cueDropped i.kind.cls))
    replace ports : ((s.withCueInbox rest).dropCue i.kind.cls).ports = (s.raiseRouted (.cueDropped i.kind.cls)).ports := ports
    generalize State.dropCue _ _ = t at *
    refine ⟨t, served, fun k' => ?_, ports, ?_, ?_, ?_, ?_⟩
    · rw [cues]
      cases k' <;> rfl
    · rw [cues]
      rfl
    · rw [cues]
      rfl
    · rw [cues]
      rfl
    · refine frame.trans ((congrArg (fun c : Cues => ({ s with ports := t.ports, cues := c } : State)) cues).trans ?_)
      rw [cues]
      rfl

/-- Settles O48: each notification as a change of the queues followed by superseding the playing cue it names. -/
theorem notificationsRefreshWithdrawAndSupersede : Obligations.NotificationsRefreshWithdrawAndSupersede := by
  refine ⟨fun r o rest s operates inbox => ?_, fun c n o rest named s operates inbox which => ?_,
    fun slot how o rest s operates inbox => ?_⟩
  · have supersedes := State.supersedeIf_supersedes
      { s.withCueInbox rest with cues := (s.withCueInbox rest).cues.refresh r }
      fun q => q.ofSlot r.slot && q.refreshed r != q
    have frame := State.supersedeIf_frame { s.withCueInbox rest with cues := (s.withCueInbox rest).cues.refresh r }
      fun q => q.ofSlot r.slot && q.refreshed r != q
    refine ⟨_, exec_cueRefresh operates inbox, ?_⟩
    unfold refreshCues
    obtain ⟨idle, taken, spared⟩ := supersedes.of_same (s := s) rfl rfl
    generalize State.supersedeIf _ _ = t at *
    have queues (k : CueClass) : t.cues.queue k = (s.cues.queue k).map r.onCue := by
      rw [frame]
      cases k <;> rfl
    refine ⟨fun k n q here => ⟨fun other => ?_, fun slot => ?_⟩, fun k => ?_, idle, fun x plays => ⟨?_, ?_⟩, ?_⟩
    · rw [queues, List.getElem?_map, here, Option.map_some, Refresh.onCue, if_neg other]
    · rw [queues, List.getElem?_map, here, Option.map_some, Refresh.onCue, if_pos slot, Cue.refreshed_eq]
    · rw [queues, List.length_map]
    · rintro ⟨fresh, slot, differs⟩
      refine taken x plays ((Cue.refresh_differs r x.cue).trans (decide_eq_true ⟨slot, ?_⟩)) fresh
      rw [Ne, Cue.refreshed_eq_self_iff]
      tauto
    · intro stands
      have spares (equal : x.cue.slot = some r.slot → x.cue.refreshed r = x.cue) :=
        (Cue.refresh_differs r x.cue).trans (decide_eq_false fun ⟨slot, differs⟩ => differs (equal slot))
      refine spared x plays ?_
      obtain superseded | other | equal := stands
      · exact .inr superseded
      · exact .inl (spares fun slot => absurd slot other)
      · exact .inl (spares fun _ => (Cue.refreshed_eq_self_iff r x.cue).mpr equal)
    · generalize t.ports = ports at frame ⊢
      generalize t.cues.playing = playing at frame ⊢
      subst frame
      rfl
  · obtain ⟨t, served, safety, queues, platform, delay, routine, ⟨idle, taken, spared⟩, frame⟩ :=
      withdrawCues_spec named rest s
    exact ⟨t, served ▸ exec_withdrawal operates inbox which, safety, queues, platform, delay, routine, idle, taken, spared,
      frame⟩
  · have frame := (s.withCueInbox rest).supersedeIf_frame (Cue.ofSlot slot)
    obtain ⟨idle, taken, spared⟩ :=
      ((s.withCueInbox rest).supersedeIf_supersedes (Cue.ofSlot slot)).of_same (s := s) rfl rfl
    refine ⟨_, exec_recordEnded operates inbox, frame, idle, fun x plays same => ?_, fun x plays other => ?_⟩
    · exact taken x plays (beq_iff_eq.mpr same)
    · exact spared x plays (other.imp_left beq_eq_false_iff_ne.mpr)

end

section
/-! The Cue Scheduler's commands (8.6 to 8.8): ANNOUNCE, the pick and FETCH CUE, and the end of the playing cue. -/

namespace Sys2Proof.Machine

/-! ### The service in the scheduler's operations -/

theorem State.setService_withCues (s : State) (p : Port) (v : Service) (c : Cues) :
    ({ s.setService p v with cues := c } : State) = ({ s with cues := c } : State).setService p v := by
  cases p <;> rfl

theorem State.ite_setService (p : Port) (v : Service) (b : Prop) [Decidable b] (s t : State) :
    (if b then s.setService p v else t.setService p v) = (if b then s else t).setService p v :=
  (apply_ite (fun u : State => u.setService p v) b s t).symm

theorem State.appendCue_setService (s : State) (p : Port) (v : Service) (q : Cue) :
    (s.setService p v).appendCue q = (s.appendCue q).setService p v := by
  simp only [State.appendCue, State.setService_cues, State.setService_withCues, State.raise_setService,
    State.ite_setService]

theorem State.dropCue_setService (s : State) (p : Port) (v : Service) (k : CueClass) :
    (s.setService p v).dropCue k = (s.dropCue k).setService p v := by
  simp only [State.dropCue, State.setService_cues, State.setService_withCues, State.raiseRouted_setService]

theorem State.offerNext_setService (s : State) (p : Port) (v : Service) :
    (s.setService p v).offerNext = s.offerNext.setService p v := by
  simp only [State.offerNext, State.setService_cues, State.raise_setService, State.ite_setService]

theorem State.endPlaying_setService (s : State) (p : Port) (v : Service) :
    (s.setService p v).endPlaying = s.endPlaying.setService p v := by
  cases p <;> rfl

theorem finishCue_setService (q : Cue) (played : Bool) (s : State) (p : Port) (v : Service) :
    finishCue q played (s.setService p v) = (finishCue q played s).setService p v := by
  simp only [finishCue, State.endPlaying_setService, State.setService_cues,
    State.appendCue_setService, State.dropCue_setService, State.offerNext_setService, State.ite_setService]

/-- The ports of an answered state hang on its ports alone. -/
theorem State.answered_ports {s t : State} (h : s.ports = t.ports) (p : Port) (code : Byte) (payload : List Byte)
    (r : Reply) : (s.answered p code payload r).ports = (t.answered p code payload r).ports := by
  cases p <;> simp only [State.answered, State.setService, State.setPort, State.port, h]

theorem State.answered_frame (s : State) (p : Port) (code : Byte) (payload : List Byte) (r : Reply) :
    s.answered p code payload r = { s with ports := (s.answered p code payload r).ports } :=
  s.setService_frame p _

theorem State.events_answered (s : State) (p q : Port) (code : Byte) (payload : List Byte) (r : Reply) :
    ((s.answered p code payload r).port q).events = (s.port q).events :=
  s.events_setService p q _

/-! ### Appended notices (R140, R153) -/

/-- A NOTICE appended raises SAFETY_CUE_READY, and CUE_READY where nothing plays (R140). -/
theorem State.appendCue_notice {s : State} {q : Cue} (kind : q.kind = .notice) :
    (s.appendCue q).cues = { s.cues with safety := s.cues.safety ++ [q] } ∧
    (s.cues.playing = none → (s.appendCue q).ports = ((s.raise .cp .safetyCueReady).raise .cp .cueReady).ports) ∧
    (s.cues.playing ≠ none → (s.appendCue q).ports = (s.raise .cp .safetyCueReady).ports) := by
  refine ⟨?_, fun idle => ?_, fun plays => ?_⟩
  · rw [(s.appendCue_spec q).1, kind]
    rfl
  · simp only [State.appendCue, kind, if_true, State.raise_cues]
    rw [if_pos (by simp [CueKind.cls, Cues.setQueue, idle])]
    exact State.raise_ports (State.raise_ports rfl _ _) _ _
  · simp only [State.appendCue, kind, if_true, State.raise_cues]
    rw [if_neg (by simpa [CueKind.cls, Cues.setQueue] using plays)]
    exact State.raise_ports rfl _ _

/-- The cue an ANNOUNCE appends, and the state with it appended (R153). -/
def State.announced (s : State) (ref : TextRef) (n : Nat) : State :=
  ({ s with cues := { s.cues with nextHandle := handleAfter s.cues.freeHandle } } : State).appendCue
    (noticeCue s.cues.freeHandle ref n s.cues.working)

theorem announceServed_room {s : State} (room : s.cues.safety.length < 16) (ref : TextRef) (n : Nat) (p : Port)
    (v : Service) : announceServed (ref, n) (s.setService p v) =
      ((s.announced ref n).setService p v, some ⟨.done, [byte s.cues.freeHandle]⟩) := by
  simp only [announceServed, State.setService_cues, if_pos room, State.setService_withCues,
    State.appendCue_setService, done, State.announced]

theorem announceServed_full {s : State} (full : 16 ≤ s.cues.safety.length) (ref : TextRef) (n : Nat) (p : Port)
    (v : Service) : announceServed (ref, n) (s.setService p v) = (s.setService p v, some ⟨.queueFull, []⟩) := by
  simp only [announceServed, State.setService_cues, if_neg (Nat.not_lt.mpr full), refuse]

/-! ### The pick (R146, R147) -/

theorem Cues.nonEmpty_eq_nil_iff (c : Cues) : c.nonEmpty = [] ↔ c.platform = [] ∧ c.delay = [] ∧ c.routine = [] := by
  simp [Cues.nonEmpty, Cues.queue]

theorem Cues.mem_nonEmpty (c : Cues) (k : CueClass) : k ∈ c.nonEmpty ↔ k ≠ .safety ∧ c.queue k ≠ [] := by
  cases k <;> simp [Cues.nonEmpty]

theorem Cues.pick_safety {c : Cues} (h : c.safety ≠ []) (cfg : Settings) : c.pick cfg = (some .safety, c) := by
  rw [Cues.pick, if_pos (by simpa using h)]

theorem Cues.pick_strict {c : Cues} {cfg : Settings} (none : c.safety = []) (strict : cfg.scheduling = .strict) :
    c.pick cfg = ([CueClass.platform, .delay, .routine].find? fun k => !(c.queue k).isEmpty, c) := by
  rw [Cues.pick, if_neg (by simp [none]), strict, Cues.nonEmpty, List.head?_filter]

/-- The first class of three for which something holds. -/
theorem find?_class {p : CueClass → Bool} {k : CueClass} (here : p k = true)
    (first : k = .platform ∨ k = .delay ∧ p .platform = false ∨
      k = .routine ∧ p .platform = false ∧ p .delay = false) :
    [CueClass.platform, .delay, .routine].find? p = some k := by
  obtain rfl | ⟨rfl, platform⟩ | ⟨rfl, platform, delay⟩ := first
  · rw [List.find?_cons_of_pos here]
  · rw [List.find?_cons_of_neg (by simp [platform]), List.find?_cons_of_pos here]
  · rw [List.find?_cons_of_neg (by simp [platform]), List.find?_cons_of_neg (by simp [delay]),
      List.find?_cons_of_pos here]

/-- A WEIGHTED pick: the first non-empty class with credit, whose credit falls by 1 (R147). -/
theorem Cues.pick_weighted {c d : Cues} {cfg : Settings} {k : CueClass} (none : c.safety = [])
    (weighted : cfg.scheduling = .weighted) (reloaded : c.reloaded cfg = d) (queue : d.queue k ≠ [])
    (credit : 0 < d.credit k)
    (first : k = .platform ∨ k = .delay ∧ (d.platform = [] ∨ d.creditPlatform = 0) ∨
      k = .routine ∧ (d.platform = [] ∨ d.creditPlatform = 0) ∧ (d.delay = [] ∨ d.creditDelay = 0)) :
    c.pick cfg = (some k, d.spend k) := by
  have found : (d.nonEmpty.find? fun k => decide (0 < d.credit k)) = some k := by
    rw [Cues.nonEmpty, List.find?_filter]
    have passed {j : CueClass} (h : d.queue j = [] ∨ d.credit j = 0) :
        decide ((!(d.queue j).isEmpty) = true ∧ decide (0 < d.credit j) = true) = false := by
      obtain h | h := h <;> simp [h]
    refine find?_class (by simpa using ⟨queue, credit⟩) ?_
    exact first.imp_right (.imp (.imp_right passed) (.imp_right (.imp passed passed)))
  simp only [Cues.pick, none, List.isEmpty_nil, Bool.not_true, Bool.false_eq_true, if_false, weighted, reloaded, found]

theorem Cues.reloaded_of_credit {c : Cues} {k : CueClass} (queue : c.queue k ≠ []) (credit : 0 < c.credit k)
    (cfg : Settings) : c.reloaded cfg = c := by
  have safe : k ≠ .safety := fun h => absurd (h ▸ credit : 0 < c.credit .safety) (Nat.lt_irrefl 0)
  have member := (c.mem_nonEmpty k).mpr ⟨safe, queue⟩
  refine if_neg fun all => ?_
  rw [Bool.and_eq_true, List.all_eq_true] at all
  have spent := all.2 k member
  rw [beq_iff_eq] at spent
  omega

theorem Cues.reloaded_of_spent {c : Cues} {k : CueClass} (safe : k ≠ .safety) (queue : c.queue k ≠ [])
    (spent : ∀ j, c.queue j ≠ [] → c.credit j = 0) (cfg : Settings) : c.reloaded cfg = c.reload cfg := by
  refine if_pos ?_
  rw [Bool.and_eq_true, List.all_eq_true]
  refine ⟨?_, fun j member => beq_iff_eq.mpr (spent j ((c.mem_nonEmpty j).mp member).2)⟩
  cases h : c.nonEmpty with
  | nil => exact absurd (h ▸ (c.mem_nonEmpty k).mpr ⟨safe, queue⟩) List.not_mem_nil
  | cons _ _ => rfl

theorem Cues.pick_none {c : Cues} (nothing : ∀ k, c.queue k = []) (cfg : Settings) : (c.pick cfg).1 = none := by
  have empty : c.nonEmpty = [] := c.nonEmpty_eq_nil_iff.mpr ⟨nothing .platform, nothing .delay, nothing .routine⟩
  have safety : c.safety = [] := nothing .safety
  have reloaded : c.reloaded cfg = c := by simp [Cues.reloaded, empty]
  unfold Cues.pick
  cases h : cfg.scheduling <;> simp [safety, empty, reloaded]

/-- Every pick that R146 and R147 give, by the case that gives it. -/
theorem Cues.pick_eq {s : State} {k : CueClass} {q : Cue} {qs : List Cue} {c : Cues} (queue : s.cues.queue k = q :: qs)
    (which : k = .safety ∧ c = s.cues ∨
        s.cues.safety = [] ∧ s.settings.scheduling = .strict ∧ c = s.cues ∧
          (k = .platform ∨ k = .delay ∧ s.cues.platform = [] ∨
            k = .routine ∧ s.cues.platform = [] ∧ s.cues.delay = []) ∨
        s.cues.safety = [] ∧ s.settings.scheduling = .weighted ∧ 0 < s.cues.credit k ∧ c = s.cues.spend k ∧
          (k = .platform ∨ k = .delay ∧ (s.cues.platform = [] ∨ s.cues.creditPlatform = 0) ∨
            k = .routine ∧ (s.cues.platform = [] ∨ s.cues.creditPlatform = 0) ∧
              (s.cues.delay = [] ∨ s.cues.creditDelay = 0)) ∨
        s.cues.safety = [] ∧ s.settings.scheduling = .weighted ∧
          (∀ j, s.cues.queue j ≠ [] → s.cues.credit j = 0) ∧
          (k = .platform ∧ 0 < s.settings.platformWeight ∧
            c = { s.cues with creditPlatform := s.settings.platformWeight - 1, creditDelay := s.settings.delayWeight
                              creditRoutine := s.settings.routineWeight } ∨
            k = .delay ∧ s.cues.platform = [] ∧ 0 < s.settings.delayWeight ∧
            c = { s.cues with creditPlatform := s.settings.platformWeight, creditDelay := s.settings.delayWeight - 1
                              creditRoutine := s.settings.routineWeight } ∨
            k = .routine ∧ s.cues.platform = [] ∧ s.cues.delay = [] ∧ 0 < s.settings.routineWeight ∧
            c = { s.cues with creditPlatform := s.settings.platformWeight, creditDelay := s.settings.delayWeight
                              creditRoutine := s.settings.routineWeight - 1 })) :
    s.cues.pick s.settings = (some k, c) ∧ c.queue = s.cues.queue ∧ c.working = s.cues.working := by
  have some_ : s.cues.queue k ≠ [] := queue ▸ List.cons_ne_nil q qs
  obtain ⟨rfl, rfl⟩ | ⟨none, strict, rfl, first⟩ | ⟨none, weighted, credit, rfl, first⟩ |
    ⟨none, weighted, spent, reload⟩ := which
  · exact ⟨Cues.pick_safety some_ _, rfl, rfl⟩
  · have empty {j : CueClass} (h : s.cues.queue j = []) : (!(s.cues.queue j).isEmpty) = false := by simp [h]
    refine ⟨?_, rfl, rfl⟩
    rw [Cues.pick_strict none strict, find?_class (by simpa using some_)]
    exact first.imp_right (.imp (.imp_right empty) (.imp_right (.imp empty empty)))
  · refine ⟨Cues.pick_weighted none weighted (Cues.reloaded_of_credit some_ credit _) some_ credit first, ?_, ?_⟩
    · cases k <;> rfl
    · cases k <;> rfl
  · have picked (safe : k ≠ .safety) (weight : 0 < (s.cues.reload s.settings).credit k) :=
      Cues.pick_weighted (k := k) none weighted (Cues.reloaded_of_spent safe some_ spent s.settings)
        (by cases k <;> exact some_) weight
    obtain ⟨rfl, weight, rfl⟩ | ⟨rfl, platform, weight, rfl⟩ | ⟨rfl, platform, delay, weight, rfl⟩ := reload
    · exact ⟨picked nofun weight (.inl rfl), rfl, rfl⟩
    · exact ⟨picked nofun weight (.inr (.inl ⟨rfl, .inl platform⟩)), rfl, rfl⟩
    · exact ⟨picked nofun weight (.inr (.inr ⟨rfl, .inl platform, .inl delay⟩)), rfl, rfl⟩

/-! ### The bytes of a fetched cue (10.8) -/

theorem cueRefBytes_length (x : Option TextRef) : (cueRefBytes x).length = 3 := by cases x <;> rfl

theorem Cue.remarkBytes_length (q : Cue) : q.remarkBytes.length = 3 := by
  unfold Cue.remarkBytes
  split
  · rfl
  · exact cueRefBytes_length _

theorem Cues.cueBytes_length (c : Cues) (q : Cue) : (c.cueBytes q).length = 31 := by
  simp [Cues.cueBytes, packCode_length, beInt_length, cueRefBytes_length, Cue.remarkBytes_length, be16]

/-- The row bytes of an absent remark: free where the kind holds one, else 0 (log 19). -/
def Cue.noRowBytes (q : Cue) : List Byte :=
  if q.kind = .delay ∨ q.kind = .cancel then openBytes .absentCueRemarkRow else [0, 0]

theorem Cue.remarkBytes_none {q : Cue} (h : q.remark = none) : q.remarkBytes = q.noRowBytes ++ [0] := by
  unfold Cue.remarkBytes Cue.noRowBytes
  rw [h]
  split
  · next kind => rw [if_pos kind.2]
  · next kind => rw [if_neg fun k => kind ⟨rfl, k⟩]; rfl

theorem Cue.remarkBytes_some {q : Cue} {y : TextRef} (h : q.remark = some y) : q.remarkBytes = refBytes y := by
  rw [Cue.remarkBytes, if_neg (by simp [h]), h, cueRefBytes]

/-! ### FETCH CUE (R149) -/

theorem exec_fetchCue {s t : State} {r : Reply} (h : s.commanded .cp codeFetchCue [])
    (served : fetchServed (s.setService .cp (.serving codeFetchCue [] .taken)) =
      (t.setService .cp (.serving codeFetchCue [] .taken), some r)) :
    exec .fetchCue s = .next (t.answered .cp codeFetchCue [] r) := by
  show serve .cp codeFetchCue _ s = _
  rw [serve_withoutPayload h, served, Served.finish, State.answer_setService_taken]

/-- A cue that the pick gives is played. -/
theorem fetchServed_plays {s : State} {k : CueClass} {c : Cues} {q : Cue} {qs : List Cue} (idle : s.cues.playing = none)
    (picked : s.cues.pick s.settings = (some k, c)) (queue : c.queue k = q :: qs) (v : Service) :
    fetchServed (s.setService .cp v) = (({ s with cues := c.play k q s.settings.playTimeout } : State).setService .cp v,
      some ⟨.done, c.cueBytes q⟩) := by
  simp only [fetchServed, State.setService_cues, State.setService_settings, idle, picked, queue, List.head?_cons,
    Option.isSome_none, Bool.false_eq_true, if_false, done]
  rfl

theorem fetchServed_nothing {s : State} (idle : s.cues.playing = none) (nothing : ∀ k, s.cues.queue k = []) (v : Service) :
    fetchServed (s.setService .cp v) = (s.setService .cp v, some ⟨.done, [0]⟩) := by
  have picked := Cues.pick_none nothing s.settings
  unfold fetchServed
  rw [State.setService_cues, State.setService_settings, idle, if_neg (by simp)]
  generalize s.cues.pick s.settings = pick at picked
  obtain ⟨k, c⟩ := pick
  subst picked
  rfl

theorem fetchServed_busy {s : State} (plays : s.cues.playing ≠ none) (v : Service) :
    fetchServed (s.setService .cp v) = (s.setService .cp v, some ⟨.busy, []⟩) := by
  rw [fetchServed, State.setService_cues, if_pos (Option.isSome_iff_ne_none.mpr plays), refuse]

/-! ### The end of the playing cue (R150, R151) -/

theorem Cues.anyPending_iff (c : Cues) : c.anyPending = true ↔ ∃ k, c.queue k ≠ [] := by
  rw [Cues.anyPending, Bool.not_eq_true', List.isEmpty_eq_false_iff_exists_mem]
  simp only [Cues.mem_allPending]
  constructor
  · rintro ⟨x, k, member⟩
    exact ⟨k, List.ne_nil_of_mem member⟩
  · rintro ⟨k, some_⟩
    obtain ⟨x, member⟩ := List.exists_mem_of_ne_nil _ some_
    exact ⟨x, k, member⟩

/-- What is offered to the Cue Port: CUE_READY where cues are pending (R140). -/
theorem State.offerNext_spec (s : State) :
    s.offerNext = { s with ports := s.offerNext.ports } ∧ s.offerNext.cues = s.cues ∧
    ((∀ k, s.cues.queue k = []) → s.offerNext.ports = s.ports) ∧
    ((∃ k, s.cues.queue k ≠ []) → s.offerNext.ports = (s.raise .cp .cueReady).ports) := by
  unfold State.offerNext
  split
  · next pending =>
    obtain ⟨k, some_⟩ := s.cues.anyPending_iff.mp pending
    refine ⟨?_, State.raise_cues _ _ _, fun none => absurd (none k) some_, fun _ => rfl⟩
    apply State.eq_of_fields <;> simp
  · next idle =>
    exact ⟨rfl, rfl, fun _ => rfl, fun pending => absurd (s.cues.anyPending_iff.mpr pending) idle⟩

/-- A cue that is not appended again leaves the playing position (R150). -/
theorem finishCue_leaves {q : Cue} {played : Bool} (leaves : q.kind ≠ .notice ∨ played = false ∨ q.repeats = 0)
    (s : State) : finishCue q played s = s.endPlaying.offerNext := by
  refine if_neg ?_
  rintro ⟨kind, rfl, left⟩
  obtain other | silent | last := leaves
  · exact other kind
  · exact nomatch silent
  · omega

theorem finishCue_again {q : Cue} (kind : q.kind = .notice) (left : 0 < q.repeats) {s : State}
    (room : s.cues.safety.length < 16) :
    finishCue q true s = s.endPlaying.appendCue { q with repeats := q.repeats - 1 } :=
  (if_pos ⟨kind, rfl, left⟩).trans (if_pos room)

theorem finishCue_full {q : Cue} (kind : q.kind = .notice) (left : 0 < q.repeats) {s : State}
    (full : ¬ s.cues.safety.length < 16) : finishCue q true s = (s.endPlaying.dropCue .safety).offerNext :=
  (if_pos ⟨kind, rfl, left⟩).trans (if_neg full)

theorem State.offerNext_ports_endPlaying {s : State} :
    ((∀ k, s.cues.queue k = []) → s.endPlaying.offerNext.ports = s.ports) ∧
    ((∃ k, s.cues.queue k ≠ []) → s.endPlaying.offerNext.ports = (s.raise .cp .cueReady).ports) := by
  obtain ⟨-, -, idle, pending⟩ := s.endPlaying.offerNext_spec
  have queue (k : CueClass) : s.endPlaying.cues.queue k = s.cues.queue k := by cases k <;> rfl
  simp only [queue] at idle pending
  exact ⟨idle, fun h => (pending h).trans (State.raise_ports rfl _ _)⟩

/-- What a finished cue leaves of the state. -/
theorem finishCue_frame (q : Cue) (played : Bool) (s : State) : finishCue q played s = { s with
    ports := (finishCue q played s).ports
    cues := { s.cues with
      playing := none, safety := (finishCue q played s).cues.safety
      dropSafety := (finishCue q played s).cues.dropSafety } } := by
  by_cases again : q.kind = .notice ∧ played = true ∧ 0 < q.repeats
  · obtain ⟨kind, rfl, left⟩ := again
    by_cases room : s.cues.safety.length < 16
    · rw [finishCue_again kind left room]
      obtain ⟨cues, -, -⟩ := State.appendCue_notice (s := s.endPlaying) (q := { q with repeats := q.repeats - 1 }) kind
      obtain ⟨-, frame, -, -⟩ := s.endPlaying.appendCue_spec { q with repeats := q.repeats - 1 }
      generalize State.appendCue _ _ = t at *
      rw [cues] at frame ⊢
      exact frame
    · rw [finishCue_full kind left room]
      obtain ⟨offered, kept, -, -⟩ := (s.endPlaying.dropCue .safety).offerNext_spec
      obtain ⟨cues, -, frame⟩ := s.endPlaying.dropCue_spec .safety
      generalize State.offerNext _ = t at *
      rw [kept, cues]
      rw [frame, cues] at offered
      exact offered
  · have leaves : q.kind ≠ .notice ∨ played = false ∨ q.repeats = 0 := by
      rw [← Bool.not_eq_true]
      by_contra stays
      exact again (by push Not at stays; exact ⟨stays.1, stays.2.1, Nat.pos_of_ne_zero stays.2.2⟩)
    rw [finishCue_leaves leaves]
    obtain ⟨offered, kept, -, -⟩ := s.endPlaying.offerNext_spec
    rw [kept]
    exact offered

theorem exec_cueDone {s t : State} {payload : List Byte} {h : Nat} {played : Bool} {r : Reply}
    (commanded : s.commanded .cp codeCueDone payload) (parsed_ : parseDone payload = some (h, played))
    (served : cueDoneServed (h, played) (s.setService .cp (.serving codeCueDone payload .taken)) =
      (t.setService .cp (.serving codeCueDone payload .taken), some r)) :
    exec .cueDone s = .next (t.answered .cp codeCueDone payload r) :=
  serve_answers commanded (by rw [parsed, parsed_]; exact served)

theorem cueDoneServed_refused {s : State} {h : Nat} (other : ∀ x, s.cues.playing = some x → x.cue.handle ≠ h)
    (played : Bool) (v : Service) :
    cueDoneServed (h, played) (s.setService .cp v) = (s.setService .cp v, some ⟨.noCue, []⟩) := by
  rw [cueDoneServed, State.setService_cues]
  cases plays : s.cues.playing with
  | none => rfl
  | some x => exact if_neg (other x plays)

theorem cueDoneServed_ends {s : State} {x : Playing} (plays : s.cues.playing = some x) (played : Bool) (v : Service) :
    cueDoneServed (x.cue.handle, played) (s.setService .cp v) =
      ((finishCue x.cue played s).setService .cp v, some ⟨.done, []⟩) := by
  rw [cueDoneServed, State.setService_cues, plays]
  exact (if_pos rfl).trans (by rw [finishCue_setService, done])

theorem exec_playTimerExpiry {s : State} {x : Playing} (operates : s.operating) (plays : s.cues.playing = some x)
    (out : x.left = 0) : exec .playTimerExpiry s = .next (finishCue x.cue false
      { s with cues := { s.cues with playTimeouts := increment s.cues.playTimeouts } }) := by
  show execPlayTimerExpiry s = _
  rw [execPlayTimerExpiry, whenOperating_operating operates, plays]
  simp only [out, if_true]

end Sys2Proof.Machine
end

section
open Sys2Proof Sys2Proof.Machine

/-- Settles O49: the notice appended or refused, and the fetched cue by the case of the pick. -/
theorem announceAndFetchWorkTheQueues : Obligations.AnnounceAndFetchWorkTheQueues := by
  refine ⟨fun c payload ref n s commanded holds parsed_ => ⟨fun full => ?_, fun room => ?_⟩,
    fun s commanded => ⟨fun plays => ?_, fun idle nothing => ?_, fun idle k q qs c queue which => ?_⟩⟩
  · exact serve_authorised_answers commanded holds parsed_ (announceServed_full full ref n _ _)
  · have served : exec (.announce c) s = _ :=
      serve_authorised_answers commanded holds parsed_ (announceServed_room room ref n c.port _)
    obtain ⟨cues, idle, plays⟩ := State.appendCue_notice (q := noticeCue s.cues.freeHandle ref n s.cues.working)
      (s := { s with cues := { s.cues with nextHandle := handleAfter s.cues.freeHandle } }) rfl
    obtain ⟨-, frame, -, -⟩ := State.appendCue_spec
      { s with cues := { s.cues with nextHandle := handleAfter s.cues.freeHandle } }
      (noticeCue s.cues.freeHandle ref n s.cues.working)
    unfold State.announced at served
    generalize State.appendCue _ _ = t at *
    replace idle (none_ : s.cues.playing = none) :=
      (idle none_).trans (State.raise_ports (State.raise_ports (t := s) (by rfl) _ _) _ _)
    replace plays (some_ : s.cues.playing ≠ none) := (plays some_).trans (State.raise_ports (t := s) (by rfl) _ _)
    have kept : (t.answered c.port codeAnnounce payload ⟨.done, [byte s.cues.freeHandle]⟩).cues = t.cues :=
      State.setService_cues _ _ _
    refine ⟨_, _, served, (congrArg Cues.safety (kept.trans cues)), rfl, rfl, rfl, rfl, rfl,
      congrArg Cues.nextHandle (kept.trans cues), State.answered_service _ _ _ _ _, fun enabled => ?_,
      fun none_ => State.answered_ports (idle none_) _ _ _ _,
      fun some_ => State.answered_ports (plays some_) _ _ _ _, ?_⟩
    · rw [State.events_answered]
      have raised := s.mem_events_raise .cp .safetyCueReady enabled
      by_cases none_ : s.cues.playing = none
      · rw [State.port, idle none_]
        exact State.mem_events_raise_of_ne (by decide) raised
      · rw [State.port, plays none_]
        exact raised
    · refine (State.answered_frame _ _ _ _ _).trans ?_
      generalize (t.answered _ _ _ _).ports = ports
      rw [cues] at frame
      rw [kept, cues]
      generalize t.ports = p at frame
      subst frame
      rfl
  · exact exec_fetchCue commanded (fetchServed_busy plays _)
  · exact exec_fetchCue commanded (fetchServed_nothing idle nothing _)
  · obtain ⟨picked, queues, working⟩ := Cues.pick_eq queue which
    have head : c.queue k = q :: qs := (congrFun queues k).trans queue
    refine ⟨_, c.cueBytes q, q.noRowBytes, exec_fetchCue commanded (fetchServed_plays idle picked head _),
      Cues.cueBytes_length c q, ?_, fun delay cancel => if_neg (not_or.mpr ⟨delay, cancel⟩), ?_, ?_⟩
    · unfold Cue.noRowBytes
      split <;> rfl
    · refine congr_arg₂ HAppend.hAppend (congr_arg₂ HAppend.hAppend (congr_arg₂ HAppend.hAppend
        (congr_arg₂ HAppend.hAppend (congr_arg₂ HAppend.hAppend (congr_arg₂ HAppend.hAppend
        (congr_arg₂ HAppend.hAppend (congr_arg₂ HAppend.hAppend (congr_arg₂ HAppend.hAppend
        (congr_arg₂ HAppend.hAppend ?slot rfl) rfl) rfl) rfl) ?destination) ?remark) ?text) rfl) rfl) ?age
      case slot =>
        unfold Cue.slotByte
        cases q.slot <;> rfl
      case destination => cases q.destination <;> rfl
      case remark =>
        cases remark : q.remark with
        | none => exact Cue.remarkBytes_none remark
        | some y => exact Cue.remarkBytes_some remark
      case text => cases q.text <;> rfl
      case age => rw [Cues.age, working]
    · rw [Cues.play, head]
      rfl

/-- Settles O50: a cue leaves, is appended again, or is dropped at a full queue. -/
theorem playingEndsByReportOrTimeout : Obligations.PlayingEndsByReportOrTimeout := by
  refine ⟨fun payload h played s commanded parsed_ => ⟨fun other => ?_, ?_⟩, fun x s operates plays out => ?_⟩
  · exact exec_cueDone commanded parsed_ (cueDoneServed_refused other played _)
  · rintro x plays rfl
    have served := exec_cueDone commanded parsed_ (cueDoneServed_ends plays played _)
    have frame := finishCue_frame x.cue played s
    have kept : ((finishCue x.cue played s).answered .cp codeCueDone payload ⟨.done, []⟩).cues =
        (finishCue x.cue played s).cues := State.setService_cues _ _ _
    refine ⟨_, served, ?_, State.answered_service _ _ _ _ _, ?_, fun leaves => ⟨?_, ?_⟩, fun kind report left => ?_⟩
    · rw [kept, frame]
    · refine (State.answered_frame _ _ _ _ _).trans ?_
      rw [kept]
      generalize (State.answered _ _ _ _ _).ports = ports
      generalize finishCue x.cue played s = t at *
      generalize t.ports = p at frame
      generalize t.cues.safety = safety at frame ⊢
      generalize t.cues.dropSafety = dropped at frame ⊢
      subst frame
      rfl
    · rw [kept, finishCue_leaves leaves]
      exact (State.offerNext_spec _).2.1
    · rw [finishCue_leaves leaves]
      exact ⟨fun none_ => State.answered_ports (State.offerNext_ports_endPlaying.1 none_) _ _ _ _,
        fun some_ => State.answered_ports (State.offerNext_ports_endPlaying.2 some_) _ _ _ _⟩
    · subst report
      rw [kept]
      refine ⟨fun room => ?_, fun full => ?_⟩
      · rw [finishCue_again kind left room]
        obtain ⟨cues, idle, -⟩ := State.appendCue_notice (s := s.endPlaying)
          (q := { x.cue with repeats := x.cue.repeats - 1 }) kind
        rw [cues]
        exact ⟨rfl, rfl, State.answered_ports
          ((idle rfl).trans (State.raise_ports (State.raise_ports rfl _ _) _ _)) _ _ _ _⟩
      · rw [finishCue_full kind left (by omega)]
        obtain ⟨-, same, -, ready⟩ := (s.endPlaying.dropCue .safety).offerNext_spec
        obtain ⟨cues, queues, -⟩ := s.endPlaying.dropCue_spec .safety
        have pending : ∃ k, (s.endPlaying.dropCue .safety).cues.queue k ≠ [] := by
          refine ⟨.safety, ?_⟩
          rw [cues, queues]
          exact List.ne_nil_of_length_pos (by show 0 < s.cues.safety.length; omega)
        have dropped := congrArg State.ports
          (State.raiseRouted_withCues s (s.endPlaying.cues.countDrop .safety) (.cueDropped .safety))
        replace dropped : (s.endPlaying.dropCue .safety).ports = (s.raiseRouted (.cueDropped .safety)).ports := dropped
        rw [same, cues]
        exact ⟨rfl, increment_eq _, State.answered_ports ((ready pending).trans (State.raise_ports dropped _ _)) _ _ _ _⟩
  · have served := exec_playTimerExpiry operates plays out
    rw [finishCue_leaves (.inr (.inl rfl))] at served
    obtain ⟨frame, cues, idle, ready⟩ := State.offerNext_spec
      (State.endPlaying { s with cues := { s.cues with playTimeouts := increment s.cues.playTimeouts } })
    have queue (k : CueClass) : (State.endPlaying
        { s with cues := { s.cues with playTimeouts := increment s.cues.playTimeouts } }).cues.queue k =
          s.cues.queue k := by cases k <;> rfl
    simp only [queue] at idle ready
    refine ⟨_, served, cues.trans ?_, idle, fun some_ => (ready some_).trans (State.raise_ports rfl _ _), ?_⟩
    · rw [increment_eq]
      rfl
    · generalize State.offerNext _ = t at *
      rw [cues]
      exact frame

end

section
/-! Minute events and rebases at the composer and the scheduler (6.2, 8.2), and the deliveries that waited for a
rollover. -/

namespace Sys2Proof.Machine

/-- Where a routed event goes hangs on the ports, the settings and the holder alone (R180). -/
theorem State.raiseRouted_ports {s t : State} (ports : s.ports = t.ports) (settings : s.settings = t.settings)
    (arbiter : s.arbiter = t.arbiter) (e : Event) : (s.raiseRouted e).ports = (t.raiseRouted e).ports := by
  have both : (s.raiseBoth e).ports = (t.raiseBoth e).ports := State.raise_ports (State.raise_ports ports _ _) _ _
  unfold State.raiseRouted
  rw [settings, arbiter]
  cases e.route t.settings.routing with
  | none => exact ports
  | some r =>
    cases r with
    | none => exact ports
    | both => exact both
    | holder =>
      cases t.arbiter.holder with
      | none => exact both
      | some c => exact State.raise_ports ports _ _

/-- Deliveries of events and replies begin no rollover and reach no inbox. -/
theorem deliver_plain {ds : List Delivery} (plain : ∀ d ∈ ds, (∃ e, d = .event e) ∨ ∃ c, d = .reply c) (s : State) :
    (deliver ds s).time = { s.time with outbox := [] } ∧ (deliver ds s).table = s.table ∧
    (deliver ds s).cues = s.cues ∧ (deliver ds s).composer = s.composer ∧ (deliver ds s).clock = s.clock := by
  induction ds generalizing s with
  | nil => exact ⟨rfl, rfl, rfl, rfl, rfl⟩
  | cons d ds ih =>
    have rest := ih fun d member => plain d (List.mem_cons_of_mem _ member)
    obtain ⟨e, rfl⟩ | ⟨c, rfl⟩ := plain d List.mem_cons_self
    · obtain ⟨time, table, cues, composer, clock⟩ := rest (s.raiseRouted e)
      exact ⟨time.trans (by rw [State.raiseRouted_time]), table.trans (State.raiseRouted_table _ _),
        cues.trans (State.raiseRouted_cues _ _), composer.trans (State.raiseRouted_composer _ _),
        clock.trans (State.raiseRouted_clock _ _)⟩
    · obtain ⟨time, table, cues, composer, clock⟩ := rest (s.answer c.port ⟨.done, []⟩)
      exact ⟨time.trans (by rw [State.answer_time]), table.trans (State.answer_table _ _ _),
        cues.trans (State.answer_cues _ _ _), composer.trans (State.answer_composer _ _ _),
        clock.trans (State.answer_clock _ _ _)⟩

/-- The scheduler's stage done, its message taken, and the rollover over (R4, R138). -/
def State.rolledOver (s : State) (rest : List CueMessage) : State :=
  { s with cues := { s.cues.rebase with inbox := rest }, time := { s.time with rollover := none } }

/-- The state after DAY_ROLLOVER and the minute event behind it. -/
def State.newDay (s : State) (rest : List CueMessage) (n : Nat) : State :=
  ((s.rolledOver rest).raiseRouted .dayRollover).sendMinute n

theorem exec_cueRebase {s : State} {n : Nat} {rest : List CueMessage} {after : List Delivery} (operates : s.operating)
    (inbox : s.cues.inbox = .rebase :: rest) (minutes : s.cues.minutes = []) (stage : s.time.rollover = some .scheduler)
    (outbox : s.time.outbox = .minute n :: after) :
    exec .cueRebase s = .next (deliver after (s.newDay rest n)) := by
  show execCueRebase s = _
  rw [execCueRebase, whenOperating_operating operates, inbox, minutes, stage]
  exact congrArg (fun ds => Host.Outcome.next (deliver ds ((s.rolledOver rest).raiseRouted .dayRollover))) outbox

/-- The new day differs from the old at the rebased scheduler, the ports, and what the minute event reaches. -/
theorem State.newDay_eq (s : State) (rest : List CueMessage) (n : Nat) : s.newDay rest n = { s with
    cues := { s.cues.rebase with inbox := rest, minutes := s.cues.minutes ++ [n] }
    ports := (s.raiseRouted .dayRollover).ports
    time := { s.time with rollover := none }
    table := { s.table with inbox := s.table.inbox ++ [.minute n] }
    composer := { s.composer with inbox := s.composer.inbox ++ [.minute n] }
    clock := { s.clock with inbox := s.clock.inbox ++ [n] } } := by
  have ports : ((s.rolledOver rest).raiseRouted .dayRollover).ports = (s.raiseRouted .dayRollover).ports :=
    State.raiseRouted_ports (by rfl) (by rfl) (by rfl) _
  have raised : (s.rolledOver rest).raiseRouted .dayRollover =
      { s.rolledOver rest with ports := (s.raiseRouted .dayRollover).ports } := by
    apply State.eq_of_fields <;> simp [ports]
  rw [State.newDay, raised]
  rfl

theorem deliver_event_ports (s : State) (e : Event) : (deliver [.event e] s).ports = (s.raiseRouted e).ports := rfl

theorem deliver_event_reply_ports {s : State} {c : Ctrl} {code : Byte} {payload : List Byte}
    (taken : (s.port c.port).service = .serving code payload .taken) (e : Event) :
    (deliver [.event e, .reply c] s).ports = ((s.raiseRouted e).answered c.port code payload ⟨.done, []⟩).ports := by
  show ((s.raiseRouted e).answer c.port ⟨.done, []⟩).ports = _
  rw [State.answer_taken ((s.service_raiseRouted c.port e).trans taken)]

end Sys2Proof.Machine
end

section
open Sys2Proof Sys2Proof.Machine

/-- Settles O40: the two minute events, the composer's stage, and the scheduler's with what waited behind it. -/
theorem minutesOfComposerAndScheduler : Obligations.MinutesOfComposerAndScheduler := by
  refine ⟨fun n rest s operates inbox => ?_, fun rest s operates inbox => ?_, fun n rest s operates minutes => ?_,
    fun n rest after s operates inbox minutes stage outbox => ?_⟩
  · have served : exec .composerMinuteEvent s = .next { s with composer := { s.composer with
          working := n, clockSet := true, notices := expireNotices n s.composer.notices, inbox := rest } } := by
      show execComposerMinuteEvent s = _
      rw [execComposerMinuteEvent, whenOperating_operating operates, inbox]
    refine ⟨_, served, rfl, rfl, rfl, fun p e here => ?_, fun p nothing => ?_, rfl⟩
    · have now : (expireNotices n s.composer.notices)[p] =
          (some e).filter fun e => !(e.expiry.any fun m => decide (m ≤ (n : Int))) :=
        (mapAll_get _ s.composer.notices p).trans (by rw [← here]; rfl)
      refine ⟨fun ⟨m, expires, reached⟩ => now.trans ?_, fun later => now.trans ?_⟩
      · simp [Option.filter, expires, reached]
      · cases expires : e.expiry with
        | none => simp [Option.filter, expires]
        | some m => simp [Option.filter, expires, later m expires]
    · exact (mapAll_get _ s.composer.notices p).trans (by rw [show s.composer.notices[p.val] = none from nothing]; rfl)
  · have served : exec .noticeRebase s = .next { s with
        composer := { s.composer with
          working := s.composer.working - 1440
          notices := mapAll (Option.map fun e : Notice => { e with expiry := e.expiry.map rebased }) s.composer.notices
          inbox := rest }
        time := { s.time with rollover := some .scheduler } } := by
      show execNoticeRebase s = _
      rw [execNoticeRebase, whenOperating_operating operates, inbox]
    exact ⟨_, served, rfl, fun p => mapAll_get _ s.composer.notices p, rfl⟩
  · show execCueMinuteEvent s = _
    rw [execCueMinuteEvent, whenOperating_operating operates, minutes]
  · have served := exec_cueRebase operates inbox minutes stage outbox
    have frame := deliver_frame after (s.newDay rest n)
    have plain (only) := deliver_plain (ds := after) only (s.newDay rest n)
    have event := fun e => deliver_event_ports (s.newDay rest n) e
    have raised (e : Event) : ((s.newDay rest n).raiseRouted e).ports =
        ((s.raiseRouted .dayRollover).raiseRouted e).ports :=
      State.raiseRouted_ports (by rw [State.newDay_eq]) (by rw [State.newDay_eq, State.raiseRouted_settings])
        (by rw [State.newDay_eq, State.raiseRouted_arbiter]) e
    refine ⟨_, served, ?_, fun k => ?_, fun idle => ?_, fun x plays => ?_, ?_, ?_, fun only => ?_, ?_, ?_, ?_, ?_⟩
    · rw [frame, State.newDay_eq]
      rfl
    · rw [frame, State.newDay_eq]
      cases k <;> rfl
    · rw [frame, State.newDay_eq]
      exact congrArg (Option.map _) idle
    · rw [frame, State.newDay_eq]
      exact congrArg (Option.map _) plays
    · rw [frame, State.newDay_eq]
      rfl
    · generalize deliver after (s.newDay rest n) = t at frame ⊢
      rw [State.newDay_eq] at frame
      generalize t.ports = ports at frame ⊢
      generalize t.table.inbox = messages at frame ⊢
      generalize t.composer.inbox = items at frame ⊢
      generalize t.cues.minutes = waiting at frame ⊢
      generalize t.clock.inbox = impulses at frame ⊢
      generalize t.time.rollover = stage at frame ⊢
      generalize t.time.outbox = outbox at frame ⊢
      subst frame
      rfl
    · obtain ⟨time, table, cues, composer, clock⟩ := plain only
      rw [time, table, cues, composer, clock, State.newDay_eq]
      exact ⟨rfl, rfl, rfl, by rw [minutes]; rfl, rfl, rfl⟩
    · rintro rfl
      show (s.newDay rest n).ports = _
      rw [State.newDay_eq]
    · rintro kind m rfl
      exact (event _).trans (raised _)
    · rintro kind m c payload rfl taken
      have taken' : ((s.newDay rest n).port c.port).service = .serving codeSetTime payload .taken := by
        rw [State.newDay_eq]
        exact (s.service_raiseRouted c.port .dayRollover).trans taken
      exact (deliver_event_reply_ports taken' _).trans (State.answered_ports (raised _) _ _ _ _)
    · rintro more rfl
      show ((s.newDay rest n).beginRollover more).time.rollover = _ ∧ _ ∧ _
      rw [State.newDay_eq]
      exact ⟨rfl, rfl, List.append_assoc _ _ _⟩

end

section
/-! The clock lines (chapter 9): the evaluation of a line against the minute, impulses, faults and the line commands. -/

namespace Sys2Proof.Machine

/-! ### The evaluation of one line (R158, R160) -/

/-- The difference of R158 as the integer it is a natural number of. -/
theorem dialDifference_eq (g m : Nat) : (dialDifference g m : Int) = ((g : Int) - m) % 720 :=
  Int.toNat_of_nonneg (Int.emod_nonneg _ (by decide))

theorem dialCase_onTime {wait d : Nat} (h : d = 0) : dialCase wait d = (.inStep, false) := if_pos h

theorem dialCase_ahead {wait d : Nat} (h : d ≠ 0) (ahead : 720 - wait ≤ d) : dialCase wait d = (.waiting, false) :=
  (if_neg h).trans (if_pos ahead)

theorem dialCase_behind {wait d : Nat} (h : d ≠ 0) (behind : ¬ 720 - wait ≤ d) :
    dialCase wait d = (if d = 1 then .inStep else .catching, true) := by
  rw [dialCase, if_neg h, if_neg behind]
  split <;> rfl

/-- An evaluation of an evaluable line with no impulse in flight is that of R158. -/
theorem State.evaluateLine_evaluates {s : State} {l : Line} {m : Nat} (evaluable : s.clock.lines[l].state.evaluable = true)
    (idle : s.clock.lines[l].impulse = none) (shown : s.clock.lines[l].shown = some m) :
    s.evaluates l m s.clock.lines[l] (s.evaluateLine l).clock.lines[l] s.retention.entries[l]
      (s.evaluateLine l).retention.entries[l] := by
  obtain ⟨-, unset, set⟩ := s.evaluateLine_spec l
  refine ⟨fun none_ => ⟨unset evaluable idle none_, ?_⟩, fun some_ d difference => ?_⟩
  · have kept := (s.evaluateLine_changesLine l).2.2.1
      (by rw [unset evaluable idle none_])
    rw [kept]
  · rw [← State.dialTarget, ← dialDifference_eq] at difference
    generalize distance : dialDifference s.dialTarget m = n at difference
    have found {v due} (h : dialCase s.settings.lines[l].wait n = (v, due)) :=
      set m v due evaluable idle some_ shown (by rw [distance, h])
    refine ⟨fun onTime => ?_, fun off ahead => ?_, fun off behind => ⟨fun left runs => ?_, fun stands => ?_⟩⟩
    · obtain ⟨line, area⟩ := (found (dialCase_onTime (by omega))).1 (.inl rfl)
      exact ⟨line, by rw [area]⟩
    · obtain ⟨line, area⟩ := (found (dialCase_ahead (by omega) (by omega))).1 (.inl rfl)
      exact ⟨line, by rw [area]⟩
    · obtain ⟨line, area⟩ := (found (dialCase_behind (by omega) (by omega))).1 (.inr (by rw [runs]; rfl))
      refine ⟨line.trans ?_, by rw [area]⟩
      rw [if_congr (show n = 1 ↔ d = 1 by omega) rfl rfl]
    · obtain ⟨line, entry⟩ := (found (dialCase_behind (by omega) (by omega))).2 rfl
        (by obtain h | h := stands <;> rw [h] <;> rfl)
      refine ⟨line.trans ?_, entry⟩
      rw [if_congr (show n = 1 ↔ d = 1 by omega) rfl rfl]
      rfl

/-- An evaluation depends on the clock, DAY START and the line's item of the state. -/
theorem State.evaluates.of_same {s u : State} {l : Line} {m : Nat} {r after : LineRecord} {e e' : RetentionEntry}
    (h : u.evaluates l m r after e e') (settings : u.settings = s.settings) (clockSet : u.clock.clockSet = s.clock.clockSet)
    (working : u.clock.working = s.clock.working) : s.evaluates l m r after e e' := by
  unfold State.evaluates at h ⊢
  rwa [settings, clockSet, working] at h

/-! ### What the operations of the driver leave -/

/-- Two states differ in nothing but the line records, the retention area and the ports. -/
def State.DriverOnly (s t : State) : Prop :=
  t = { s with clock := { s.clock with lines := t.clock.lines }, retention := t.retention, ports := t.ports }

theorem State.DriverOnly.refl (s : State) : s.DriverOnly s := rfl

theorem State.DriverOnly.trans {s u t : State} (h : s.DriverOnly u) (h' : u.DriverOnly t) : s.DriverOnly t := by
  unfold State.DriverOnly at *
  rw [h] at h'
  exact h'

theorem State.DriverOnly.settings {s t : State} (h : s.DriverOnly t) : t.settings = s.settings :=
  h ▸ rfl

theorem State.DriverOnly.working {s t : State} (h : s.DriverOnly t) : t.clock.working = s.clock.working := by
  rw [h]

theorem State.DriverOnly.clockSet {s t : State} (h : s.DriverOnly t) : t.clock.clockSet = s.clock.clockSet := by
  rw [h]

theorem State.DriverOnly.answered {s t : State} (h : s.DriverOnly t) (p : Port) (code : Byte) (payload : List Byte)
    (r : Reply) : s.DriverOnly (t.answered p code payload r) := by
  unfold State.DriverOnly State.answered at *
  rw [State.setService_clock, State.setService_retention]
  refine (State.setService_frame _ _ _).trans ?_
  generalize (t.setService _ _).ports = ports
  generalize t.retention = retention at *
  generalize t.clock.lines = lines at *
  generalize t.ports = before at *
  subst h
  rfl

theorem State.DriverOnly.arbiter {s t : State} (h : s.DriverOnly t) : t.arbiter = s.arbiter := by
  rw [h]

theorem State.DriverOnly.raised {s t : State} (h : s.DriverOnly t) (e : Event) : s.DriverOnly (t.raiseRouted e) := by
  unfold State.DriverOnly at *
  rw [State.raiseRouted_clock, State.raiseRouted_retention]
  refine (State.raiseRouted_spec _ _).trans ?_
  generalize (t.raiseRouted e).ports = ports
  generalize t.retention = retention at *
  generalize t.clock.lines = lines at *
  generalize t.ports = before at *
  subst h
  rfl

theorem State.evaluateLine_driverOnly (s : State) (l : Line) : s.DriverOnly (s.evaluateLine l) :=
  (s.evaluateLine_changesLine l).2.1

theorem State.setLine_driverOnly (s : State) (l : Line) (r : LineRecord) : s.DriverOnly (s.setLine l r) := by
  obtain ⟨clock, frame⟩ := s.setLine_spec l r
  unfold State.DriverOnly
  rw [State.setLine_retention]
  generalize s.setLine l r = t at *
  rw [clock] at frame ⊢
  exact frame

theorem State.setLine_line (s : State) (l : Line) (r : LineRecord) : (s.setLine l r).clock.lines[l] = r := by
  rw [(s.setLine_spec l r).1]
  exact put_self _ _ _

theorem State.setLine_other (s : State) {l j : Line} (h : j ≠ l) (r : LineRecord) :
    (s.setLine l r).clock.lines[j] = s.clock.lines[j] := by
  rw [(s.setLine_spec l r).1]
  exact (put_get _ _ _ _).trans (if_neg h)

/-- An entry written and the line's record replaced, as one change (R163). -/
def State.written (s : State) (l : Line) (e : RetentionEntry) (r : LineRecord) : State := (s.retain l e).setLine l r

theorem State.written_spec (s : State) (l : Line) (e : RetentionEntry) (r : LineRecord) :
    s.DriverOnly (s.written l e r) ∧ (s.written l e r).clock.lines[l] = r ∧
    (s.written l e r).retention = ⟨put s.retention.entries l e, true⟩ ∧
    (∀ j : Line, j ≠ l → (s.written l e r).clock.lines[j] = s.clock.lines[j]) := by
  refine ⟨?_, State.setLine_line _ _ _, State.setLine_retention _ _ _, fun j other => State.setLine_other _ other _⟩
  exact State.DriverOnly.trans (u := s.retain l e) rfl (State.setLine_driverOnly _ _ _)

theorem put_entry (entries : Vector RetentionEntry 4) (l : Line) (e : RetentionEntry) : (put entries l e)[l] = e :=
  put_self _ _ _

theorem put_entry_other (entries : Vector RetentionEntry 4) {l j : Line} (h : j ≠ l) (e : RetentionEntry) :
    (put entries l e)[j] = entries[j] :=
  (put_get _ _ _ _).trans (if_neg h)

/-- What follows an entry written, where it changes that line alone (R163). -/
theorem State.written_then {s t : State} {l : Line} {e : RetentionEntry} {r : LineRecord}
    (h : (s.written l e r).changesLine t l) : t.retention.valid = true ∧ s.DriverOnly t ∧
    (∀ j : Line, j ≠ l → t.clock.lines[j] = s.clock.lines[j] ∧ t.retention.entries[j] = s.retention.entries[j]) ∧
    (t.clock.lines[l].impulse = r.impulse → t.retention = ⟨put s.retention.entries l e, true⟩) := by
  obtain ⟨only, line, retention, others⟩ := s.written_spec l e r
  obtain ⟨others', only', kept, valid⟩ := h
  rw [line] at kept valid
  rw [retention] at kept others'
  refine ⟨?_, only.trans only', fun j other => ⟨?_, ?_⟩, kept⟩
  · by_cases same : t.clock.lines[l].impulse = r.impulse
    · rw [kept same]
    · exact valid same
  · exact (others' j other).1.trans (others j other)
  · exact (others' j other).2.trans (put_entry_other _ other _)

theorem State.changesLine_refl (s : State) (l : Line) : s.changesLine s l :=
  ⟨fun _ _ => ⟨rfl, rfl⟩, rfl, fun _ => rfl, fun other => absurd rfl other⟩

/-- An evaluation leaves what the dial shows, and its polarity. -/
theorem State.evaluateLine_dial (s : State) (l : Line) :
    (s.evaluateLine l).clock.lines[l].shown = s.clock.lines[l].shown ∧
    (s.evaluateLine l).clock.lines[l].polarity = s.clock.lines[l].polarity := by
  obtain ⟨stands, unset, set⟩ := s.evaluateLine_spec l
  by_cases open_ : s.clock.lines[l].state.evaluable = true ∧ s.clock.lines[l].impulse = none
  · obtain ⟨evaluable, idle⟩ := open_
    cases clock : s.clock.clockSet with
    | false =>
      rw [unset evaluable idle clock]
      exact ⟨rfl, rfl⟩
    | true =>
      cases shown : s.clock.lines[l].shown with
      | none =>
        have same : s.evaluateLine l = s := by
          unfold State.evaluateLine
          simp only [evaluable, idle, clock, shown, and_self, if_true]
        rw [same]
        exact ⟨shown, rfl⟩
      | some m =>
        obtain ⟨rests, starts⟩ := set m _ _ evaluable idle clock shown rfl
        by_cases due : (dialCase s.settings.lines[l].wait (dialDifference s.dialTarget m)).2 = true ∧
            s.clock.lines[l].spacing.allows = true
        · rw [(starts due.1 due.2).1]
          exact ⟨shown, rfl⟩
        · rw [(rests (by rw [← Bool.not_eq_true, ← Bool.not_eq_true]; exact not_and_or.mp due)).1]
          exact ⟨shown, rfl⟩
  · rw [stands (by rw [← Bool.not_eq_true]; exact not_and_or.mp open_)]
    exact ⟨rfl, rfl⟩

/-- An evaluation while the clock is unset, or of a line it does not apply to, starts no impulse. -/
theorem State.evaluateLine_rests {s : State} {l : Line}
    (h : s.clock.clockSet = false ∨ s.clock.lines[l].state.evaluable = false ∨ s.clock.lines[l].impulse ≠ none) :
    (s.evaluateLine l).clock.lines[l].impulse = s.clock.lines[l].impulse := by
  obtain ⟨stands, unset, -⟩ := s.evaluateLine_spec l
  by_cases open_ : s.clock.lines[l].state.evaluable = true ∧ s.clock.lines[l].impulse = none
  · obtain clock | closed | flies := h
    · rw [unset open_.1 open_.2 clock]
    · exact absurd open_.1 (by rw [closed]; decide)
    · exact absurd open_.2 flies
  · rw [stands (by rw [← Bool.not_eq_true]; exact not_and_or.mp open_)]

theorem State.becomeOff_spec (s : State) (l : Line) : s.changesLine (s.becomeOff l) l ∧
    (s.becomeOff l).retention = s.retention ∧ (s.becomeOff l).clock.lines[l] =
      { s.clock.lines[l] with state := .off, offRequested := false, spacing := .stopped } := by
  obtain ⟨changes, retention⟩ := s.setLine_changesLine l
    { s.clock.lines[l] with state := .off, offRequested := false, spacing := .stopped } rfl
  exact ⟨changes, retention, s.setLine_line l _⟩

/-! ### Minute events (R157) -/

/-- The evaluation of several lines changes nothing but the driver, and keeps every other line. -/
theorem State.foldl_evaluateLine (ls : List Line) (s : State) :
    s.DriverOnly (ls.foldl State.evaluateLine s) ∧ ∀ l : Line, l ∉ ls →
      (ls.foldl State.evaluateLine s).clock.lines[l] = s.clock.lines[l] ∧
      (ls.foldl State.evaluateLine s).retention.entries[l] = s.retention.entries[l] := by
  induction ls generalizing s with
  | nil => exact ⟨.refl s, fun _ _ => ⟨rfl, rfl⟩⟩
  | cons j ls ih =>
    obtain ⟨frame, others⟩ := ih (s.evaluateLine j)
    refine ⟨(s.evaluateLine_driverOnly j).trans frame, fun l absent => ?_⟩
    obtain ⟨other, absent⟩ := not_or.mp (mt List.mem_cons.mpr absent)
    obtain ⟨line, entry⟩ := (s.evaluateLine_changesLine j).1 l other
    obtain ⟨line', entry'⟩ := others l absent
    exact ⟨line'.trans line, entry'.trans entry⟩

theorem allLines_split (l : Line) : ∃ before after, allLines = before ++ l :: after ∧ l ∉ before ∧ l ∉ after := by
  obtain ⟨before, after, split⟩ := List.append_of_mem (show l ∈ allLines by revert l; decide)
  have nodup : (before ++ l :: after).Nodup := split ▸ (by decide : allLines.Nodup)
  obtain ⟨-, tail, apart⟩ := List.nodup_append.mp nodup
  exact ⟨before, after, split, fun member => apart l member l List.mem_cons_self rfl, (List.nodup_cons.mp tail).1⟩

/-- At a minute event each line is evaluated once, as it stood. -/
theorem State.evaluateAll_line (s : State) (l : Line) : ∃ u : State, s.DriverOnly u ∧ u.clock.lines[l] = s.clock.lines[l] ∧
    u.retention.entries[l] = s.retention.entries[l] ∧
    (allLines.foldl State.evaluateLine s).clock.lines[l] = (u.evaluateLine l).clock.lines[l] ∧
    (allLines.foldl State.evaluateLine s).retention.entries[l] = (u.evaluateLine l).retention.entries[l] := by
  obtain ⟨before, after, split, first, once⟩ := allLines_split l
  obtain ⟨frame, untouched⟩ := State.foldl_evaluateLine before s
  obtain ⟨line, entry⟩ := untouched l first
  obtain ⟨-, kept⟩ := State.foldl_evaluateLine after ((before.foldl State.evaluateLine s).evaluateLine l)
  rw [split, List.foldl_append, List.foldl_cons]
  exact ⟨_, frame, line, entry, kept l once⟩

/-! ### The service in the driver's operations -/

theorem State.setService_withClock (s : State) (p : Port) (v : Service) (c : ClockDriver) :
    ({ s.setService p v with clock := c } : State) = ({ s with clock := c } : State).setService p v := by
  cases p <;> rfl

theorem State.noted_of_setService (s t : State) (p : Port) (v : Service) : (s.setService p v).noted t = s.noted t := by
  simp only [State.noted, State.setService, statusVector_setPort]

theorem State.setLine_setService (s : State) (p : Port) (v : Service) (l : Line) (r : LineRecord) :
    (s.setService p v).setLine l r = (s.setLine l r).setService p v := by
  rw [State.setLine, State.setService_clock, State.setService_withClock, State.noted_of_setService,
    State.noted_setService, State.setLine]

theorem State.retain_setService (s : State) (p : Port) (v : Service) (l : Line) (e : RetentionEntry) :
    (s.setService p v).retain l e = (s.retain l e).setService p v := by
  cases p <;> rfl

theorem State.startImpulse_setService (s : State) (p : Port) (v : Service) (l : Line) :
    (s.setService p v).startImpulse l = (s.startImpulse l).setService p v := by
  simp only [State.startImpulse, State.setService_clock, State.setService_settings, State.retain_setService,
    State.setLine_setService]

theorem State.evaluateLine_setService (s : State) (p : Port) (v : Service) (l : Line) :
    (s.setService p v).evaluateLine l = (s.evaluateLine l).setService p v := by
  have settle (m : Nat) : (s.setService p v).settleLine l m = (s.settleLine l m).setService p v := by
    simp only [State.settleLine, State.dialTarget, State.setService_clock, State.setService_settings,
      State.setLine_setService, State.startImpulse_setService]
    split
    · next starts => exact (congrArg (fun u : State => u.setService p v) (if_pos starts)).symm
    · next rests => exact (congrArg (fun u : State => u.setService p v) (if_neg rests)).symm
  unfold State.evaluateLine
  simp only [State.setService_clock, settle, State.setLine_setService]
  split
  · split
    · cases s.clock.lines[l].shown <;> rfl
    · rfl
  · rfl

theorem State.turnOff_setService (s : State) (p : Port) (v : Service) (l : Line) :
    (s.setService p v).turnOff l = (s.turnOff l).setService p v := by
  simp only [State.turnOff, State.becomeOff, State.setService_clock, State.setLine_setService, State.ite_setService]

theorem State.written_setService (s : State) (p : Port) (v : Service) (l : Line) (e : RetentionEntry) (r : LineRecord) :
    (s.setService p v).written l e r = (s.written l e r).setService p v := by
  rw [State.written, State.retain_setService, State.setLine_setService, State.written]

/-! ### The line commands (R164 to R167) -/

theorem State.changesLine_answered {s t : State} {l : Line} (h : s.changesLine t l) (p : Port) (code : Byte)
    (payload : List Byte) (r : Reply) : s.changesLine (t.answered p code payload r) l := by
  obtain ⟨others, only, kept, valid⟩ := h
  have frame := State.DriverOnly.answered only p code payload r
  unfold State.DriverOnly at frame
  unfold State.changesLine
  rw [State.answered, State.setService_clock, State.setService_retention] at *
  exact ⟨others, frame, kept, valid⟩

/-- A line's record as SET DIAL SHOWN leaves it before its evaluation: a line that was UNKNOWN has no time yet (R164). -/
def LineRecord.dialled (r : LineRecord) (m : Nat) (pol : Polarity) : LineRecord :=
  { r with shown := some m, polarity := pol, state := if r.state = .unknown then .noTime else r.state }

/-- The state after SET DIAL SHOWN: an evaluation leaves a line alone that is not evaluable (R158, R164). -/
def State.dialled (s : State) (l : Line) (m : Nat) (pol : Polarity) : State :=
  (s.written l ⟨m, pol, false⟩ (s.clock.lines[l].dialled m pol)).evaluateLine l

theorem State.evaluateLine_written_closed (s : State) {l : Line} {e : RetentionEntry} {r : LineRecord}
    (closed : r.state.evaluable = false) : (s.written l e r).evaluateLine l = s.written l e r :=
  ((s.written l e r).evaluateLine_spec l).1 (.inl (by rw [(s.written_spec l e r).2.1]; exact closed))

theorem dialServed_sets {s : State} {l : Line} {m : Nat} {pol : Polarity} (idle : s.clock.lines[l].impulse = none)
    (agrees : s.clock.lines[l].shown = none ∨ pol = s.clock.lines[l].polarity) :
    dialServed (l, m, pol) s = (s.dialled l m pol, some ⟨.done, []⟩) := by
  have free : ¬ s.clock.lines[l].impulse.isSome = true := by rw [idle]; decide
  have same : ¬ (s.clock.lines[l].shown.isSome = true ∧ pol ≠ s.clock.lines[l].polarity) := by
    rintro ⟨known, differs⟩
    obtain none_ | equal := agrees
    · rw [none_] at known
      exact absurd known (by decide)
    · exact differs equal
  unfold dialServed
  refine (if_neg free).trans ((if_neg same).trans ?_)
  unfold State.dialled LineRecord.dialled
  cases state : s.clock.lines[l].state with
  | unknown => rfl
  | off => rw [State.evaluateLine_written_closed _ rfl]; rfl
  | fault k => rw [State.evaluateLine_written_closed _ rfl]; rfl
  | noTime => rfl
  | inStep => rfl
  | catching => rfl
  | waiting => rfl

theorem State.dialled_setService (s : State) (p : Port) (v : Service) (l : Line) (m : Nat) (pol : Polarity) :
    (s.setService p v).dialled l m pol = (s.dialled l m pol).setService p v := by
  rw [State.dialled, State.setService_clock, State.written_setService, State.evaluateLine_setService, State.dialled]

/-- A line brought to a state and then evaluated, as LINE ON and CLEAR LINE FAULT do (R166, R167). -/
def State.restarted (s : State) (l : Line) (state : LineState) : State :=
  (s.setLine l { s.clock.lines[l] with state := state }).evaluateLine l

theorem State.restarted_setService (s : State) (p : Port) (v : Service) (l : Line) (state : LineState) :
    (s.setService p v).restarted l state = (s.restarted l state).setService p v := by
  rw [State.restarted, State.setService_clock, State.setLine_setService, State.evaluateLine_setService, State.restarted]

theorem State.restarted_spec (s : State) (l : Line) (state : LineState) :
    s.changesLine (s.restarted l state) l ∧
    ((state.evaluable = false ∨ s.clock.lines[l].impulse ≠ none) →
      (s.restarted l state).clock.lines[l] = { s.clock.lines[l] with state := state }) ∧
    (s.clock.clockSet = false →
      (s.restarted l .noTime).clock.lines[l] = { s.clock.lines[l] with state := .noTime }) ∧
    (∀ m, s.clock.lines[l].shown = some m → s.clock.lines[l].impulse = none →
      s.evaluates l m s.clock.lines[l] (s.restarted l .noTime).clock.lines[l] s.retention.entries[l]
        (s.restarted l .noTime).retention.entries[l]) := by
  have stands (state : LineState) (h : state.evaluable = false ∨ s.clock.lines[l].impulse ≠ none) :
      (s.restarted l state).clock.lines[l] = { s.clock.lines[l] with state := state } := by
    have line := s.setLine_line l { s.clock.lines[l] with state := state }
    rw [State.restarted, (State.evaluateLine_spec _ l).1 (by rw [line]; exact h), line]
  refine ⟨?_, stands state, fun unset => ?_, fun m shown idle => ?_⟩
  · obtain ⟨changes, -⟩ := s.setLine_changesLine l { s.clock.lines[l] with state := state } rfl
    have line := s.setLine_line l { s.clock.lines[l] with state := state }
    exact changes.trans (by rw [line]) (State.evaluateLine_changesLine _ l)
  · by_cases idle : s.clock.lines[l].impulse = none
    · have line := s.setLine_line l { s.clock.lines[l] with state := .noTime }
      have only := s.setLine_driverOnly l { s.clock.lines[l] with state := .noTime }
      rw [State.restarted, (State.evaluateLine_spec _ l).2.1 (by rw [line]; rfl) (by rw [line]; exact idle)
        (only.clockSet.trans unset), line]
    · exact stands .noTime (.inr idle)
  · have line := s.setLine_line l { s.clock.lines[l] with state := .noTime }
    have only := s.setLine_driverOnly l { s.clock.lines[l] with state := .noTime }
    have retention := State.setLine_retention s l { s.clock.lines[l] with state := .noTime }
    have evaluates := State.evaluateLine_evaluates (s := s.setLine l { s.clock.lines[l] with state := .noTime }) (l := l)
      (m := m) (by rw [line]; rfl) (by rw [line]; exact idle) (by rw [line]; exact shown)
    rw [line, retention] at evaluates
    exact evaluates.of_same only.settings only.clockSet only.working

theorem lineOnServed_on {s : State} {l : Line} (off : s.clock.lines[l].state = .off)
    (enabled : s.settings.lines[l].enabled = true) : lineOnServed l s =
      (s.restarted l (if s.clock.lines[l].shown = none then .unknown else .noTime), some ⟨.done, []⟩) := by
  refine (if_pos ⟨off, enabled⟩).trans ?_
  by_cases known : s.clock.lines[l].shown = none
  · have closed : s.restarted l .unknown = s.setLine l { s.clock.lines[l] with state := .unknown } :=
      (State.evaluateLine_spec _ l).1 (.inl (by rw [State.setLine_line]; rfl))
    rw [if_pos known, closed]
    exact if_neg (by rw [known]; decide)
  · rw [if_neg known]
    exact if_pos (Option.isSome_iff_ne_none.mpr known)

theorem LineRecord.dialled_known {r : LineRecord} (h : r.state ≠ .unknown) (m : Nat) (pol : Polarity) :
    r.dialled m pol = { r with shown := some m, polarity := pol } := by
  rw [LineRecord.dialled, if_neg h]

theorem LineRecord.dialled_unknown {r : LineRecord} (h : r.state = .unknown) (m : Nat) (pol : Polarity) :
    r.dialled m pol = { r with shown := some m, polarity := pol, state := .noTime } := by
  rw [LineRecord.dialled, if_pos h]

theorem State.turnOff_flies {s : State} {l : Line} (live : s.clock.lines[l].state ≠ .off)
    (flies : s.clock.lines[l].impulse ≠ none) :
    s.turnOff l = s.setLine l { s.clock.lines[l] with offRequested := true } :=
  (if_neg live).trans (if_pos (Option.isSome_iff_ne_none.mpr flies))

theorem State.turnOff_idle {s : State} {l : Line} (live : s.clock.lines[l].state ≠ .off)
    (idle : s.clock.lines[l].impulse = none) : s.turnOff l = s.becomeOff l :=
  (if_neg live).trans (if_neg (by rw [idle]; decide))

end Sys2Proof.Machine
end

section
open Sys2Proof Sys2Proof.Machine

/-- Settles O51: at a minute event each line is evaluated once, as it stood; at an expiry the line is. -/
theorem linesAreEvaluatedAgainstTheMinute : Obligations.LinesAreEvaluatedAgainstTheMinute := by
  refine fun l s operates => ⟨fun n rest inbox => ?_, fun out => ?_⟩
  · have served : exec .clockMinuteEvent s = .next (allLines.foldl State.evaluateLine
        { s with clock := { s.clock with working := n, clockSet := true, inbox := rest } }) := by
      show execClockMinuteEvent s = _
      rw [execClockMinuteEvent, whenOperating_operating operates, inbox]
    obtain ⟨u, only, lineBefore, entryBefore, lineAfter, entryAfter⟩ := State.evaluateAll_line
      { s with clock := { s.clock with working := n, clockSet := true, inbox := rest } } l
    obtain ⟨frame, -⟩ := State.foldl_evaluateLine allLines
      { s with clock := { s.clock with working := n, clockSet := true, inbox := rest } }
    generalize allLines.foldl _ _ = t at *
    unfold State.DriverOnly at frame
    refine ⟨t, served, by rw [frame], by rw [frame], by rw [frame], ?_, fun stands => ?_,
      fun m d evaluable idle shown difference => ?_⟩
    · generalize t.clock.lines = lines at frame
      generalize t.retention = retention at frame
      generalize t.ports = ports at frame
      subst frame
      rfl
    · rw [lineAfter, entryAfter, (u.evaluateLine_spec l).1 (by rw [lineBefore]; exact stands)]
      exact ⟨lineBefore, entryBefore⟩
    · have evaluates := State.evaluateLine_evaluates (s := u) (l := l) (m := m) (by rw [lineBefore]; exact evaluable)
        (by rw [lineBefore]; exact idle) (by rw [lineBefore]; exact shown)
      rw [← lineAfter, ← entryAfter, lineBefore, entryBefore] at evaluates
      have held := (State.evaluates.of_same evaluates only.settings only.clockSet only.working).2 rfl d difference
      exact held
  · have served : exec (.spacingTimerExpiry l) s =
        .next ((s.setLine l { s.clock.lines[l] with spacing := .runOut }).evaluateLine l) := by
      show execSpacingTimerExpiry l s = _
      rw [execSpacingTimerExpiry, whenOperating_operating operates]
      exact congrArg Host.Outcome.next (if_pos out)
    obtain ⟨expired, retention⟩ := s.setLine_changesLine l { s.clock.lines[l] with spacing := .runOut } rfl
    have line := s.setLine_line l { s.clock.lines[l] with spacing := .runOut }
    have only := s.setLine_driverOnly l { s.clock.lines[l] with spacing := .runOut }
    generalize s.setLine l { s.clock.lines[l] with spacing := .runOut } = u at *
    refine ⟨_, served, expired.trans (by rw [line]) (u.evaluateLine_changesLine l), fun stands => ?_,
      fun m evaluable idle shown => ?_⟩
    · rw [(u.evaluateLine_spec l).1 (by rw [line]; exact stands)]
      exact ⟨line, retention⟩
    · have evaluates := State.evaluateLine_evaluates (s := u) (l := l) (m := m) (by rw [line]; exact evaluable)
        (by rw [line]; exact idle) (by rw [line]; exact shown)
      rw [line, retention] at evaluates
      exact evaluates.of_same only.settings only.clockSet only.working

/-- Settles O52: a completion writes the line and its entry, then turns it off or evaluates it; a fault writes both. -/
theorem impulsesEndCompleteOrFaulted : Obligations.ImpulsesEndCompleteOrFaulted := by
  refine fun l s operates => ⟨fun idle => ⟨?_, fun kind => ?_⟩, fun p m flies shown => ⟨?_, fun kind => ?_⟩⟩
  · show execImpulseCompletion l s = _
    rw [execImpulseCompletion, whenOperating_operating operates]
    exact congrArg Host.Outcome.next (if_neg (by rw [idle]; decide))
  · show execLineFaultReport l kind s = _
    rw [execLineFaultReport, whenOperating_operating operates]
    exact congrArg Host.Outcome.next (if_neg (by rw [idle]; decide))
  · have served : exec (.impulseCompletion l) s = .next
        (if s.clock.lines[l].offRequested then
          (s.written l (s.clock.lines[l].completed.entry false) s.clock.lines[l].completed).becomeOff l
        else (s.written l (s.clock.lines[l].completed.entry false) s.clock.lines[l].completed).evaluateLine l) := by
      show execImpulseCompletion l s = _
      rw [execImpulseCompletion, whenOperating_operating operates]
      exact congrArg Host.Outcome.next (if_pos (by rw [flies]; rfl))
    have completed : s.clock.lines[l].completed = { s.clock.lines[l] with
        shown := some ((m + 1) % 720), impulse := none
        polarity := if s.clock.lines[l].polarity = .positive then .negative else .positive } := by
      rw [LineRecord.completed, shown]
      cases s.clock.lines[l].polarity <;> rfl
    have entry : s.clock.lines[l].completed.entry false = ⟨(m + 1) % 720, s.clock.lines[l].completed.polarity, false⟩ := by
      rw [LineRecord.entry, completed]
      rfl
    obtain ⟨only, line, retention, others⟩ := s.written_spec l (s.clock.lines[l].completed.entry false)
      s.clock.lines[l].completed
    have after {t : State} := State.written_then (s := s) (t := t) (l := l)
      (e := s.clock.lines[l].completed.entry false) (r := s.clock.lines[l].completed)
    generalize State.written _ _ _ _ = u at *
    cases off : s.clock.lines[l].offRequested with
    | true =>
      rw [off, if_pos rfl] at served
      obtain ⟨changes, kept, gone⟩ := u.becomeOff_spec l
      rw [line] at gone
      obtain ⟨valid, frame, others', -⟩ := after changes
      refine ⟨_, _, served, completed, by rw [gone], by rw [gone], valid, fun _ => ⟨gone, ?_⟩, nofun, nofun, others', frame⟩
      rw [kept, retention]
      exact (put_entry _ _ _).trans entry
    | false =>
      rw [off, if_neg Bool.false_ne_true] at served
      obtain ⟨valid, frame, others', -⟩ := after (u.evaluateLine_changesLine l)
      obtain ⟨shows, polarity⟩ := u.evaluateLine_dial l
      rw [line] at shows polarity
      have written : u.retention.entries[l] = ⟨(m + 1) % 720, s.clock.lines[l].completed.polarity, false⟩ := by
        rw [retention]
        exact (put_entry _ _ _).trans entry
      refine ⟨_, _, served, completed, shows, polarity, valid, nofun, fun _ closed => ?_, fun _ evaluable => ?_, others',
        frame⟩
      · rw [(u.evaluateLine_spec l).1 (.inl (by rw [line]; exact closed))]
        exact ⟨line, written⟩
      · have evaluates := State.evaluateLine_evaluates (s := u) (l := l) (m := (m + 1) % 720)
          (by rw [line]; exact evaluable) (by rw [line]; rfl) (by rw [line, completed])
        rw [line, written] at evaluates
        exact evaluates.of_same only.settings only.clockSet only.working
  · have served : exec (.lineFaultReport l kind) s = .next ((s.written l (s.clock.lines[l].entry false)
        { s.clock.lines[l] with
          state := if s.clock.lines[l].offRequested then .off else .fault kind
          impulse := none, offRequested := false, spacing := .stopped }).raiseRouted (.clockLineFault l kind)) := by
      show execLineFaultReport l kind s = _
      rw [execLineFaultReport, whenOperating_operating operates]
      refine congrArg Host.Outcome.next ((if_pos (by rw [flies]; rfl)).trans ?_)
      cases off : s.clock.lines[l].offRequested with
      | true => rfl
      | false => rfl
    have entry : s.clock.lines[l].entry false = ⟨m, s.clock.lines[l].polarity, false⟩ := by
      rw [LineRecord.entry, shown]
      rfl
    rw [entry] at served
    obtain ⟨only, line, retention, others⟩ := s.written_spec l ⟨m, s.clock.lines[l].polarity, false⟩
      { s.clock.lines[l] with
          state := if s.clock.lines[l].offRequested then .off else .fault kind
          impulse := none, offRequested := false, spacing := .stopped }
    have enables (q : Port) : ((s.written l ⟨m, s.clock.lines[l].polarity, false⟩ { s.clock.lines[l] with
        state := if s.clock.lines[l].offRequested then .off else .fault kind
        impulse := none, offRequested := false, spacing := .stopped }).port q).enables = (s.port q).enables :=
      State.enables_noted _ _ q
    generalize State.written _ _ _ _ = u at *
    refine ⟨_, served, ?_, ?_, fun q routes on => ?_, fun j other => ?_, ?_⟩
    · rw [State.raiseRouted_clock, line]
    · rw [State.raiseRouted_retention, retention]
    · refine State.mem_events_raiseRouted (r := s.settings.routing.clockLineFault) ?_ ?_ ?_
      · rw [only.settings]
        rfl
      · unfold State.routes
        rw [only.arbiter]
        exact routes
      · rw [enables]
        exact on
    · rw [State.raiseRouted_clock]
      exact others j other
    · exact only.raised _

/-- Settles O53: each command is refused, or leaves the line as its table gives and evaluates it. -/
theorem lineCommandsFollowTheirTables : Obligations.LineCommandsFollowTheirTables := by
  refine fun c payload l s holds => ⟨fun m pol commanded parsed_ => ⟨fun flies => ?_, fun idle known differs => ?_,
    fun idle agrees => ?_⟩, fun parsed_ => ⟨fun commanded => ⟨fun off => ?_, fun live => ?_⟩,
    fun commanded => ⟨fun refused => ?_, fun off enabled => ?_⟩,
    fun commanded => ⟨fun sound => ?_, fun k fault => ?_⟩⟩⟩
  · refine serve_authorised_answers commanded holds parsed_ ?_
    exact if_pos (by rw [State.setService_clock]; exact Option.isSome_iff_ne_none.mpr flies)
  · refine serve_authorised_answers commanded holds parsed_ ?_
    refine (if_neg (by rw [State.setService_clock, idle]; decide)).trans (if_pos ?_)
    rw [State.setService_clock]
    exact ⟨Option.isSome_iff_ne_none.mpr known, differs⟩
  · have served : exec (.setDialShown c) s =
        .next ((s.dialled l m pol).answered c.port codeSetDialShown payload ⟨.done, []⟩) := by
      refine serve_authorised_answers commanded holds parsed_ ?_
      rw [dialServed_sets (by rw [State.setService_clock]; exact idle) (by rw [State.setService_clock]; exact agrees),
        State.dialled_setService]
    obtain ⟨only, line, retention, -⟩ := s.written_spec l ⟨m, pol, false⟩ (s.clock.lines[l].dialled m pol)
    obtain ⟨shows, polarity⟩ := (s.written l ⟨m, pol, false⟩ (s.clock.lines[l].dialled m pol)).evaluateLine_dial l
    have rests := State.evaluateLine_rests (s := s.written l ⟨m, pol, false⟩ (s.clock.lines[l].dialled m pol)) (l := l)
    obtain ⟨stands, unset, -⟩ := (s.written l ⟨m, pol, false⟩ (s.clock.lines[l].dialled m pol)).evaluateLine_spec l
    have evaluates := State.evaluateLine_evaluates (s := s.written l ⟨m, pol, false⟩ (s.clock.lines[l].dialled m pol))
      (l := l) (m := m)
    obtain ⟨valid, frame, others, kept⟩ := State.written_then
      (State.evaluateLine_changesLine (s.written l ⟨m, pol, false⟩ (s.clock.lines[l].dialled m pol)) l)
    rw [← State.dialled] at shows polarity rests stands unset evaluates valid frame others kept
    rw [line] at shows polarity rests stands unset evaluates
    replace kept (same : (s.dialled l m pol).clock.lines[l].impulse = none) := kept (same.trans idle.symm)
    have clock : ((s.dialled l m pol).answered c.port codeSetDialShown payload ⟨.done, []⟩).clock =
      (s.dialled l m pol).clock := State.setService_clock _ _ _
    have area : ((s.dialled l m pol).answered c.port codeSetDialShown payload ⟨.done, []⟩).retention =
      (s.dialled l m pol).retention := State.setService_retention _ _ _
    refine ⟨_, served, ?_⟩
    have whole := frame.answered c.port codeSetDialShown payload ⟨.done, []⟩
    unfold State.DriverOnly at whole
    rw [clock, area] at whole ⊢
    refine ⟨shows, polarity, State.answered_service _ _ _ _ _, others, whole, valid, kept, fun quiet => ?_,
      fun closed => ?_, fun unknown none_ => ?_, fun open_ => ?_⟩
    · refine kept ((rests ?_).trans idle)
      obtain unset | ⟨closed, known⟩ := quiet
      · exact .inl (only.clockSet.trans unset)
      · rw [LineRecord.dialled_known known]
        exact .inr (.inl closed)
    · have known : s.clock.lines[l].state ≠ .unknown ∧ s.clock.lines[l].state.evaluable = false := by
        obtain off | ⟨k, fault⟩ := closed
        · rw [off]
          exact ⟨nofun, rfl⟩
        · rw [fault]
          exact ⟨nofun, rfl⟩
      rw [LineRecord.dialled_known known.1] at stands line
      rw [stands (.inl known.2), line]
    · rw [LineRecord.dialled_unknown unknown] at unset only
      rw [unset rfl idle (only.clockSet.trans none_)]
    · have entry : (s.written l ⟨m, pol, false⟩ (s.clock.lines[l].dialled m pol)).retention.entries[l] = ⟨m, pol, false⟩ := by
        rw [retention]
        exact put_entry _ _ _
      rw [entry] at evaluates
      by_cases unknown : s.clock.lines[l].state = .unknown
      · rw [LineRecord.dialled_unknown unknown] at evaluates only
        exact (evaluates rfl idle rfl).of_same only.settings only.clockSet only.working
      · rw [LineRecord.dialled_known unknown] at evaluates only
        exact (evaluates (open_.resolve_left unknown) idle rfl).of_same only.settings only.clockSet only.working
  · refine serve_authorised_answers commanded holds parsed_ ?_
    have stands : s.turnOff l = s := if_pos off
    rw [State.turnOff_setService, stands, done]
  · have served : exec (.lineOff c) s = .next ((s.turnOff l).answered c.port codeLineOff payload ⟨.done, []⟩) := by
      refine serve_authorised_answers commanded holds parsed_ ?_
      rw [State.turnOff_setService, done]
    obtain ⟨changes, retention⟩ := s.turnOff_changesLine l
    refine ⟨_, served, State.answered_service _ _ _ _ _, State.changesLine_answered changes _ _ _ _,
      (State.setService_retention _ _ _).trans retention, fun flies => ?_, fun idle => ?_⟩
    · refine (congrArg (fun clock : ClockDriver => clock.lines[l]) (State.setService_clock _ _ _)).trans ?_
      rw [State.turnOff_flies live flies, State.setLine_line]
    · refine (congrArg (fun clock : ClockDriver => clock.lines[l]) (State.setService_clock _ _ _)).trans ?_
      rw [State.turnOff_idle live idle, (s.becomeOff_spec l).2.2]
  · refine serve_authorised_answers commanded holds parsed_ ?_
    refine if_neg ?_
    rw [State.setService_clock, State.setService_settings]
    rintro ⟨off, enabled⟩
    obtain live | disabled := refused
    · exact live off
    · rw [disabled] at enabled
      exact absurd enabled (by decide)
  · have served : exec (.lineOn c) s = .next ((s.restarted l
        (if s.clock.lines[l].shown = none then .unknown else .noTime)).answered c.port codeLineOn payload ⟨.done, []⟩) := by
      refine serve_authorised_answers commanded holds parsed_ ?_
      rw [lineOnServed_on (by rw [State.setService_clock]; exact off) (by rw [State.setService_settings]; exact enabled),
        State.setService_clock, State.restarted_setService]
    obtain ⟨changes, stands, unset, evaluates⟩ := s.restarted_spec l
      (if s.clock.lines[l].shown = none then .unknown else .noTime)
    have noTime := (s.restarted_spec l .noTime).2.1
    have clock : ((s.restarted l (if s.clock.lines[l].shown = none then .unknown else .noTime)).answered c.port codeLineOn
      payload ⟨.done, []⟩).clock =
        (s.restarted l (if s.clock.lines[l].shown = none then .unknown else .noTime)).clock := State.setService_clock _ _ _
    have area : ((s.restarted l (if s.clock.lines[l].shown = none then .unknown else .noTime)).answered c.port codeLineOn
      payload ⟨.done, []⟩).retention =
        (s.restarted l (if s.clock.lines[l].shown = none then .unknown else .noTime)).retention :=
      State.setService_retention _ _ _
    refine ⟨_, served, State.answered_service _ _ _ _ _, State.changesLine_answered changes _ _ _ _, ?_⟩
    rw [clock, area]
    refine ⟨fun none_ => ?_, fun known none_ => ?_, fun m shown set reached low => ?_, fun m shown idle => ?_⟩
    · rw [if_pos none_] at stands ⊢
      exact stands (.inl rfl)
    · rw [if_neg known]
      exact unset none_
    · rw [if_neg (by rw [shown]; nofun)]
      split
      · next idle =>
        have onTime := ((evaluates m shown idle).2 set 0 ?_).1 rfl
        · rw [onTime.1]
        · rw [← State.dialTarget, reached, Int.sub_self]
          rfl
      · next flies => rw [noTime (.inr flies)]
    · rw [if_neg (by rw [shown]; nofun)]
      exact evaluates m shown idle
  · refine serve_authorised_answers commanded holds parsed_ ?_
    rw [clearFaultServed, State.setService_clock]
    cases state : s.clock.lines[l].state with
    | fault k => exact absurd state (sound k)
    | off | unknown | noTime | inStep | catching | waiting => rfl
  · have served : exec (.clearLineFault c) s =
        .next ((s.restarted l .noTime).answered c.port codeClearLineFault payload ⟨.done, []⟩) := by
      refine serve_authorised_answers commanded holds parsed_ ?_
      rw [clearFaultServed, State.setService_clock, fault, ← State.restarted_setService, State.restarted,
        State.setService_clock]
      rfl
    obtain ⟨changes, -, unset, evaluates⟩ := s.restarted_spec l .noTime
    have clock : ((s.restarted l .noTime).answered c.port codeClearLineFault payload ⟨.done, []⟩).clock =
      (s.restarted l .noTime).clock := State.setService_clock _ _ _
    have area : ((s.restarted l .noTime).answered c.port codeClearLineFault payload ⟨.done, []⟩).retention =
      (s.restarted l .noTime).retention := State.setService_retention _ _ _
    refine ⟨_, served, State.answered_service _ _ _ _ _, State.changesLine_answered changes _ _ _ _, ?_⟩
    rw [clock, area]
    exact ⟨unset, evaluates⟩

end

section
/-! The port lines (10.2, 10.3): the receiver fed a whole frame, what a valid frame does, and the other arrivals. -/

namespace Sys2Proof.Machine

/-! ### A port left as it is -/

theorem State.setPort_self {s : State} {p : Port} {x : PortState} (h : x = s.port p) : s.setPort p x = s := by
  subst h
  cases p <;> rfl

theorem State.setReceiver_hunt {s : State} {p : Port} (h : (s.port p).receiver = .hunt) : s.setReceiver p .hunt = s :=
  State.setPort_self (by rw [← h])

theorem State.setReceiver_setReceiver (s : State) (p : Port) (r r' : Receiver) :
    (s.setReceiver p r).setReceiver p r' = s.setReceiver p r' := by
  cases p <;> rfl

theorem State.setReceiver_discardFrame (s : State) (p : Port) (r : Receiver) :
    (s.setReceiver p r).discardFrame p = s.discardFrame p := by
  cases p <;> rfl

theorem State.receiver_setReceiver (s : State) (p : Port) (r : Receiver) :
    ((s.setReceiver p r).port p).receiver = r := by
  cases p <;> rfl

theorem State.discardFrame_eq (s : State) (p : Port) : s.discardFrame p = s.setPort p { s.port p with
    receiver := .hunt
    badFrames := if (s.port p).badFrames = 0xFFFF then 0xFFFF else (s.port p).badFrames + 1 } := by
  rw [State.discardFrame, increment_eq]

theorem State.discardFrame_hunt {s : State} {p : Port} (h : (s.port p).receiver = .hunt) : s.discardFrame p =
    s.setPort p { s.port p with
      badFrames := if (s.port p).badFrames = 0xFFFF then 0xFFFF else (s.port p).badFrames + 1 } := by
  rw [State.discardFrame_eq, ← h]

/-! ### Frames taken (R175, R77) -/

theorem State.restartSilence_spec (s : State) (p : Port) :
    s.restartSilence p = { s with arbiter := (s.restartSilence p).arbiter } ∧
    ((∀ h : Ctrl, s.arbiter.holder = some h → h.port ≠ p) → (s.restartSilence p).arbiter = s.arbiter) ∧
    (∀ h : Ctrl, s.arbiter.holder = some h → h.port = p →
      (s.restartSilence p).arbiter = { s.arbiter with silence := .running (s.settings.holdSilence * 1024000) }) := by
  unfold State.restartSilence
  cases holder : s.arbiter.holder with
  | none => exact ⟨rfl, fun _ => rfl, nofun⟩
  | some h =>
    dsimp only
    by_cases here : h.port = p
    · exact ⟨by rw [if_pos here], fun other => absurd here (other h rfl), fun _ _ _ => by rw [if_pos here]; rfl⟩
    · refine ⟨by rw [if_neg here], fun _ => by rw [if_neg here], fun h' same other => ?_⟩
      cases same
      exact absurd other here

theorem State.takeFrame_frame (s : State) (p : Port) (code : Byte) (payload : List Byte) :
    s.takeFrame p code payload = { s with ports := (s.takeFrame p code payload).ports } := by
  unfold State.takeFrame
  split
  · exact s.setService_frame p _
  · cases p <;> rfl

theorem State.port_takeFrame_ne (s : State) {p q : Port} (h : q ≠ p) (code : Byte) (payload : List Byte) :
    (s.takeFrame p code payload).port q = s.port q := by
  unfold State.takeFrame
  split
  · exact s.port_setService_ne h _
  · rw [State.port_setPort_cases, if_neg h]

theorem State.port_setService_self (s : State) (p : Port) (v : Service) :
    (s.setService p v).port p = { s.port p with service := v } := by
  rw [State.setService, State.port_setPort]

theorem State.port_takeFrame (s : State) (p : Port) (code : Byte) (payload : List Byte) :
    ((s.port p).service = .idle → codeAllowed p code = true →
      (s.takeFrame p code payload).port p = { s.port p with service := .serving code payload .waiting }) ∧
    ((s.port p).service = .idle → codeAllowed p code = false → (s.takeFrame p code payload).port p =
      { s.port p with service := .serving code payload (.replied ⟨.badCommand, []⟩) }) ∧
    ((s.port p).service ≠ .idle → (s.takeFrame p code payload).port p = { s.port p with
      overruns := if (s.port p).overruns = 0xFFFF then 0xFFFF else (s.port p).overruns + 1 }) := by
  unfold State.takeFrame
  cases service : (s.port p).service with
  | idle =>
    refine ⟨fun _ allowed => ?_, fun _ refused => ?_, fun busy => absurd rfl busy⟩
    · rw [allowed]
      exact s.port_setService_self p _
    · rw [refused]
      exact s.port_setService_self p _
  | serving c q stage =>
    refine ⟨nofun, nofun, fun _ => ?_⟩
    rw [increment_eq]
    exact State.port_setPort _ _ _

/-! ### Frames byte by byte (R174) -/

theorem State.receiveByte_power (p : Port) (s : State) (b : Byte) : (s.receiveByte p b).power = s.power := by
  unfold State.receiveByte
  split
  · exact State.setReceiver_power _ _ _
  · exact State.setPort_power _ _ _
  · dsimp only
    split
    · rw [State.takeFrame_frame, (State.restartSilence_spec _ p).1]
      exact State.setReceiver_power _ _ _
    · exact State.setReceiver_power _ _ _

theorem State.foldl_receiveByte_power (p : Port) (bytes : List Byte) (s : State) :
    (bytes.foldl (State.receiveByte p) s).power = s.power := by
  induction bytes generalizing s with
  | nil => rfl
  | cons b bytes ih => exact (ih _).trans (State.receiveByte_power p s b)

/-- What a complete frame does: discarded where its CRC is bad, else taken where its unit is the part's (R174). -/
def State.judged (s : State) (p : Port) (body crc : List Byte) : State :=
  if be16 (crc16 body).toNat = crc then
    if (body.getD 0 0).toNat = s.ident.straps.unit.toNat then
      (s.restartSilence p).takeFrame p (body.getD 2 0) (body.drop 3)
    else s
  else s.discardFrame p

theorem judgeFrame_eq {body crc : List Byte} (three : 3 ≤ body.length) (two : crc.length = 2) :
    judgeFrame (body ++ crc) = if be16 (crc16 body).toNat = crc then
      .complete (body.getD 0 0) (body.getD 2 0) (body.drop 3) else .bad := by
  have cut : (body ++ crc).length - 2 = body.length := by rw [List.length_append, two, Nat.add_sub_cancel]
  have first {i : Nat} (low : i < 3) : (body ++ crc).getD i 0 = body.getD i 0 := by
    simp only [List.getD_eq_getElem?_getD]
    rw [List.getElem?_append_left (by omega)]
  unfold judgeFrame
  rw [cut, List.take_left' rfl, List.drop_left' rfl, first (by decide), first (by decide)]

/-- A byte of a frame that is not its last goes on: neither its LEN nor its end is reached by it. -/
theorem collectByte_going {f before after : List Byte} {b : Byte} (split : f = before ++ b :: after)
    (unfinished : after ≠ []) (len : byteAt f 1 ≤ 64) (whole : f.length = byteAt f 1 + 5) :
    collectByte before b = .going (.inFrame (before ++ [b])) := by
  have more : 0 < after.length := List.length_pos_of_ne_nil unfinished
  have count : f.length = before.length + 1 + after.length := by rw [split]; simp; omega
  have second (h : 2 ≤ (before ++ [b]).length) : byteAt (before ++ [b]) 1 = byteAt f 1 := by
    have longer : f = (before ++ [b]) ++ after := split.trans (by simp)
    rw [byteAt, byteAt, longer, List.getD_append (before ++ [b]) after 0 1 h]
  unfold collectByte
  dsimp only
  rw [if_neg, if_neg]
  · rintro ⟨long, ends⟩
    rw [second long, List.length_append, List.length_singleton] at ends
    omega
  · rintro ⟨long, above⟩
    have one : before.length = 1 := by rw [List.length_append, List.length_singleton] at long; omega
    have here : byteAt (before ++ [b]) 1 = b.toNat := by
      rw [byteAt, List.getD_append_right _ _ _ _ (by omega), one]
      rfl
    rw [second (by omega)] at here
    omega

theorem collectByte_last {f before : List Byte} {b : Byte} (split : f = before ++ [b]) (len : byteAt f 1 ≤ 64)
    (whole : f.length = byteAt f 1 + 5) : collectByte before b = judgeFrame f := by
  unfold collectByte
  dsimp only
  rw [← split, if_neg, if_pos]
  · exact ⟨by omega, whole⟩
  · rintro ⟨short, -⟩
    omega

/-- A byte at a receiver in IN_FRAME, by what it does to the frame. -/
theorem State.receiveByte_inFrame {s : State} {p : Port} {before : List Byte}
    (collecting : (s.port p).receiver = .inFrame before) (b : Byte) :
    (∀ r, collectByte before b = .going r → s.receiveByte p b = s.setReceiver p r) ∧
    (collectByte before b = .bad → s.receiveByte p b = s.discardFrame p) ∧
    (∀ unit code payload, collectByte before b = .complete unit code payload → s.receiveByte p b =
      if unit.toNat = s.ident.straps.unit.toNat then ((s.setReceiver p .hunt).restartSilence p).takeFrame p code payload
      else s.setReceiver p .hunt) := by
  have taken : (s.port p).receiver.take b = collectByte before b := by rw [collecting]; rfl
  refine ⟨fun r going => ?_, fun bad => ?_, fun unit code payload whole => ?_⟩
  · rw [State.receiveByte, taken, going]
  · rw [State.receiveByte, taken, bad]
  · rw [State.receiveByte, taken, whole]
    dsimp only
    rw [State.setReceiver_ident]

/-- A frame's bytes after its SYNC, fed from any point on, are judged when the last is in (R174). -/
theorem State.foldl_receiveByte_inFrame {body crc : List Byte} (three : 3 ≤ body.length) (two : crc.length = 2)
    (len : byteAt (body ++ crc) 1 ≤ 64) (whole : (body ++ crc).length = byteAt (body ++ crc) 1 + 5) {p : Port} {s : State}
    (hunts : (s.port p).receiver = .hunt) (rest before : List Byte) (split : body ++ crc = before ++ rest)
    (unfinished : rest ≠ []) :
    rest.foldl (State.receiveByte p) (s.setReceiver p (.inFrame before)) = s.judged p body crc := by
  induction rest generalizing before with
  | nil => exact absurd rfl unfinished
  | cons b rest ih =>
    obtain ⟨going, bad, complete⟩ := State.receiveByte_inFrame
      (s.receiver_setReceiver p (.inFrame before)) b
    rw [List.foldl_cons]
    cases rest with
    | nil =>
      have last := (collectByte_last split len whole).trans (judgeFrame_eq three two)
      rw [List.foldl_nil, State.judged]
      by_cases good : be16 (crc16 body).toNat = crc
      · rw [if_pos good] at last ⊢
        rw [complete _ _ _ last, State.setReceiver_setReceiver, State.setReceiver_hunt hunts, State.setReceiver_ident]
      · rw [if_neg good] at last ⊢
        rw [bad last, State.setReceiver_discardFrame]
    | cons c rest =>
      rw [going _ (collectByte_going split (List.cons_ne_nil c rest) len whole), State.setReceiver_setReceiver]
      exact ih (before ++ [b]) (by rw [split]; simp) (List.cons_ne_nil c rest)

/-- A whole frame at a receiver in HUNT (R174). -/
theorem State.foldl_receiveByte_frame {unit code : Byte} {payload crc : List Byte} (fits : payload.length ≤ 64)
    (two : crc.length = 2) {p : Port} {s : State} (hunts : (s.port p).receiver = .hunt) :
    ([0xA5] ++ ([unit, byte payload.length, code] ++ payload) ++ crc).foldl (State.receiveByte p) s =
      s.judged p ([unit, byte payload.length, code] ++ payload) crc := by
  have begins : s.receiveByte p 0xA5 = s.setReceiver p (.inFrame []) := by
    rw [State.receiveByte, hunts]
    rfl
  have count : (byte payload.length).toNat = payload.length :=
    Nat.mod_eq_of_lt (Nat.lt_of_le_of_lt fits (by decide))
  rw [List.append_assoc, List.foldl_append, List.foldl_cons, List.foldl_nil, begins]
  refine State.foldl_receiveByte_inFrame ?_ two ?_ ?_ hunts _ [] rfl ?_
  · simp
  · exact count.trans_le fits
  · rw [show byteAt (([unit, byte payload.length, code] ++ payload) ++ crc) 1 = payload.length from count]
    simp [two]
  · exact List.cons_ne_nil _ _

/-- A LEN above 64 ends the frame at its own byte (R174). -/
theorem State.foldl_receiveByte_long {unit len : Byte} (long : 64 < len.toNat) {p : Port} {s : State}
    (hunts : (s.port p).receiver = .hunt) : [0xA5, unit, len].foldl (State.receiveByte p) s = s.discardFrame p := by
  have begins : s.receiveByte p 0xA5 = s.setReceiver p (.inFrame []) := by
    rw [State.receiveByte, hunts]
    rfl
  obtain ⟨going, -, -⟩ := State.receiveByte_inFrame (s.receiver_setReceiver p (.inFrame [])) unit
  obtain ⟨-, bad, -⟩ := State.receiveByte_inFrame (s.receiver_setReceiver p (.inFrame [unit])) len
  rw [List.foldl_cons, begins, List.foldl_cons, going (.inFrame [unit]) rfl, State.setReceiver_setReceiver,
    List.foldl_cons, bad (if_pos ⟨rfl, long⟩), State.setReceiver_discardFrame]
  rfl

/-! ### Command codes (10.8) -/

/-- The codes of each port, as numbers. -/
theorem codeAllowed_iff (p : Port) (code : Byte) (n : Nat) (number : n = code.toNat) : codeAllowed p code = true ↔
    n = 0x21 ∨ n = 0x2C ∨ n = 0x48 ∨ n = 0x58 ∨ n = 0x5A ∨
    (p = .cp ∧ (n = 0x3A ∨ n = 0x3B)) ∨
    (p ≠ .cp ∧ ((1 ≤ n ∧ n ≤ 4) ∨ (0x10 ≤ n ∧ n ≤ 0x1C) ∨ n = 0x20 ∨ (0x28 ≤ n ∧ n ≤ 0x2B) ∨ (0x30 ≤ n ∧ n ≤ 0x32) ∨
      n = 0x38 ∨ n = 0x39 ∨ (0x40 ≤ n ∧ n ≤ 0x44) ∨ n = 0x49 ∨ n = 0x4A ∨ (0x50 ≤ n ∧ n ≤ 0x52) ∨ n = 0x59)) := by
  have same (k : Byte) : code = k ↔ n = k.toNat := by rw [number, BitVec.toNat_inj]
  have small : n < 256 := number ▸ code.isLt
  unfold codeAllowed
  rw [Bool.or_eq_true]
  cases p with
  | cp =>
    simp [codesOfAllPorts, codesOfCuePort, same, codeReadTime, codeReadTextRow, codeReadEvent, codeReadCounters,
      codeReadIdent, codeFetchCue, codeCueDone]
    omega
  | p0 | p1 =>
    simp [codesOfAllPorts, codesOfControlPorts, same,
      codeRequestAuthority, codeSeizeAuthority, codeReleaseAuthority, codeReadAuthority, codeInsertDeparture,
      codeAmendExpected, codeAssignPlatform, codeSetRemark, codeSetSector, codeSetAnnounceMask,
      codeCancelDeparture, codeReinstate, codeMarkDeparted, codeRemoveDeparture, codeClearBoard, codeReadRecord,
      codeReadList, codeSetTime, codeReadTime, codeSetTextAddress, codeLoadText, codeCommitRow, codeDiscardStaging,
      codeReadTextRow, codeSetNotice, codeClearNotice, codeReadNotices, codeAnnounce, codeReadCueStatus,
      codeSetDialShown, codeClearLineFault, codeLineOff, codeLineOn, codeReadLines,
      codeReadEvent, codeSetEventEnable, codePostWatch, codeWriteConfigItem, codeReadConfigItem, codeCommitConfig,
      codeReadCounters, codeClearCounters, codeReadIdent]
    omega

end Sys2Proof.Machine
end

section
open Sys2Proof Sys2Proof.Machine

/-- Settles O58: the codes, the pieces of a frame, and a whole frame from HUNT by what it is judged to be. -/
theorem framesAreJudgedAndTaken : Obligations.FramesAreJudgedAndTaken := by
  have served {p : Port} {bytes : List Byte} {s : State} (operates : s.operating) :
      exec (.frameReceived p bytes) s = .next (bytes.foldl (State.receiveByte p) s) := by
    show execFrameReceived p bytes s = _
    rw [execFrameReceived, whenOperating_operating operates]
  refine ⟨codeAllowed_iff, fun p xs ys s => ?_, fun p x s operates hunts other => ?_,
    fun p unit code payload crc s operates hunts fits two body frame body_ frame_ => ?_,
    fun p unit len s operates hunts long => ?_, fun p code payload r s service => ?_⟩
  · refine ⟨if s.power.operates then xs.foldl (State.receiveByte p) s else s, rfl, ?_⟩
    show execFrameReceived p (xs ++ ys) s = execFrameReceived p ys _
    unfold execFrameReceived whenOperating
    cases operates : s.power.operates with
    | true =>
      rw [if_pos rfl, if_pos rfl, State.foldl_receiveByte_power, operates, if_pos rfl]
      exact congrArg Host.Outcome.next List.foldl_append
    | false =>
      rw [if_neg Bool.false_ne_true, if_neg Bool.false_ne_true, operates, if_neg Bool.false_ne_true]
  · rw [served operates]
    refine congrArg Host.Outcome.next ?_
    rw [List.foldl_cons, List.foldl_nil, State.receiveByte, hunts]
    have stays : Receiver.take .hunt x = .going .hunt := congrArg Received.going (if_neg other)
    rw [stays]
    exact State.setReceiver_hunt hunts
  · subst body_ frame_
    rw [served operates, State.foldl_receiveByte_frame fits two hunts]
    refine ⟨fun bad => ?_, fun good => ⟨fun other => ?_, fun own => ?_⟩⟩
    · rw [State.judged, if_neg (Ne.symm bad), State.discardFrame_hunt hunts]
    · rw [State.judged, if_pos good.symm]
      exact congrArg Host.Outcome.next (if_neg other)
    · rw [State.judged, if_pos good.symm]
      refine ⟨_, congrArg Host.Outcome.next (if_pos own), ?_⟩
      obtain ⟨silent, others, restarts⟩ := s.restartSilence_spec p
      have frame := (s.restartSilence p).takeFrame_frame p code payload
      obtain ⟨allowed, refused, overrun⟩ := (s.restartSilence p).port_takeFrame p code payload
      have ports (q : Port) : (s.restartSilence p).port q = s.port q := by rw [silent]; rfl
      rw [ports] at allowed refused overrun
      have arbiter : ((s.restartSilence p).takeFrame p code payload).arbiter = (s.restartSilence p).arbiter := by rw [frame]
      refine ⟨fun h => arbiter.trans (others h), fun h holds here => arbiter.trans (restarts h holds here), allowed, refused,
        overrun, fun q other => (State.port_takeFrame_ne _ other _ _).trans (ports q), ?_⟩
      show (s.restartSilence p).takeFrame p code payload = { s with
        ports := ((s.restartSilence p).takeFrame p code payload).ports
        arbiter := ((s.restartSilence p).takeFrame p code payload).arbiter }
      generalize State.takeFrame _ _ _ _ = t at *
      rw [arbiter]
      generalize t.ports = ports' at frame ⊢
      rw [silent] at frame
      exact frame
  · rw [served operates, State.foldl_receiveByte_long long hunts, State.discardFrame_hunt hunts]
  · refine ⟨_, rfl, ?_⟩
    rw [State.sentFrame, PortState.reply, service]
    rfl

/-- Settles O59: a frame in progress is discarded, counted or not; a hunt goes on; a reply's end frees the port. -/
theorem lineDisturbancesAndTheEndOfAReply : Obligations.LineDisturbancesAndTheEndOfAReply := by
  refine fun p s operates => ⟨fun bytes collecting => ⟨?_, ?_, ?_⟩, fun hunts => ⟨?_, ?_, ?_⟩,
    fun code payload r service settled => ?_⟩
  · show execFrameGapExpiry p s = _
    rw [execFrameGapExpiry, whenOperating_operating operates, collecting]
    exact congrArg Host.Outcome.next (s.discardFrame_eq p)
  · show execStopBitError p s = _
    rw [execStopBitError, whenOperating_operating operates, collecting]
    exact congrArg Host.Outcome.next (s.discardFrame_eq p)
  · show execBreak p s = _
    rw [execBreak, whenOperating_operating operates]
    rfl
  · show execFrameGapExpiry p s = _
    rw [execFrameGapExpiry, whenOperating_operating operates, hunts]
  · show execStopBitError p s = _
    rw [execStopBitError, whenOperating_operating operates, hunts]
  · show execBreak p s = _
    rw [execBreak, whenOperating_operating operates, State.setReceiver_hunt hunts]
  · have owed : s.cues.owes p = false := by
      refine List.any_eq_false.mpr fun m member => ?_
      cases m with
      | notice n origin =>
        cases origin with
        | none => exact Bool.false_ne_true
        | some c => exact fun h => settled _ member n c rfl (of_decide_eq_true h)
      | rebase => exact Bool.false_ne_true
    show execReplySent p s = _
    rw [execReplySent, whenOperating_operating operates, service]
    dsimp only
    rw [owed, if_neg Bool.false_ne_true, State.setService]

end

section
/-! The status reads (4.8, 6.5, 8.8, 9.6, 10.6, 11.5) and CLEAR COUNTERS (R184). -/

namespace Sys2Proof.Machine

theorem Vector.toList_eq_map_finRange {α : Type} {n : Nat} (v : Vector α n) :
    v.toList = (List.finRange n).map fun i => v[i] := by
  refine List.ext_getElem (by simp) fun i h h' => ?_
  simp

theorem Vector.flatMap_toList {α β : Type} {n : Nat} (v : Vector α n) (f : α → List β) :
    v.toList.flatMap f = (List.finRange n).flatMap fun i => f v[i] := by
  rw [Vector.toList_eq_map_finRange, List.flatMap_map]

/-! ### READ AUTHORITY (R81) -/

theorem Arbiter.yieldRemaining_idle {a : Arbiter} (h : a.waiting = none) : a.yieldRemaining = 0 := by
  rw [Arbiter.yieldRemaining, h]

theorem Arbiter.yieldRemaining_waits {a : Arbiter} {w : Ctrl} {left : Nat} (h : a.waiting = some w)
    (runs : a.yield = .running left) :
    left ≤ a.yieldRemaining * 1024000 ∧ a.yieldRemaining * 1024000 < left + 1024000 := by
  rw [Arbiter.yieldRemaining, h, runs]
  show left ≤ (left + 1023999) / 1024000 * 1024000 ∧ (left + 1023999) / 1024000 * 1024000 < left + 1024000
  omega

/-! ### READ LINES (R169) -/

theorem lineStatusBytes_length (s : State) (l : Line) : (lineStatusBytes s l).length = 15 := by
  unfold lineStatusBytes
  dsimp only
  cases s.clock.clockSet <;> cases s.clock.lines[l].shown <;> rfl

theorem linesBytes_length (s : State) : (linesBytes s).length = 63 := by
  rw [linesBytes, List.length_append, length_flatMap_const _ fun l _ => lineStatusBytes_length s l]
  rfl

theorem append_three (xs : List Byte) (a b c : Byte) : xs ++ [a] ++ [b] ++ [c] = xs ++ [a, b, c] := by simp

/-! ### READ NOTICES (R115) -/

theorem noticeBytes_length (x : Option Notice) : (noticeBytes x).length = 7 := by
  cases x with
  | none => rfl
  | some n => simp only [noticeBytes, List.length_append, beOptMinute_length, refBytes, be16, List.length_cons,
      List.length_nil]

theorem cursorBytes_length (x : Option Cursor) : (cursorBytes x).length = 9 := by
  obtain _ | ⟨item, part⟩ := x
  · rfl
  · cases item <;> rfl

theorem Composer.bytes_length (c : Composer) : c.bytes.length = 92 := by
  rw [Composer.bytes, List.length_append, length_flatMap_const _ fun x _ => noticeBytes_length x,
    length_flatMap_const _ fun v _ => cursorBytes_length _, Vector.length_toList, Vector.length_toList]

/-! ### READ CUE STATUS (R154) -/

theorem Cues.headAge_length (c : Cues) (k : CueClass) : (be16 (c.headAge k)).length = 2 := rfl

theorem cueStatusBytes_length (s : State) : (cueStatusBytes s).length = 40 := by
  unfold cueStatusBytes
  dsimp only
  cases s.cues.playing <;> rfl

theorem append_four (xs : List Byte) (a b c d : Byte) : xs ++ [a] ++ [b, c, d] = xs ++ [a, b, c, d] := by simp

theorem append_eight (xs a b c d e f g h : List Byte) :
    xs ++ a ++ b ++ c ++ d ++ e ++ f ++ g ++ h = xs ++ (a ++ (b ++ (c ++ (d ++ (e ++ (f ++ (g ++ (h ++ [])))))))) := by
  simp

/-! ### READ COUNTERS (R183) -/

theorem Link.counterBytes_length (l : Link) : l.counterBytes.length = 17 := by
  simp [Link.counterBytes, beCounter, be16]

theorem counterBytes_length (s : State) : (counterBytes s).length = 80 := by
  rw [counterBytes, List.length_append, length_flatMap_const _ fun l _ => Link.counterBytes_length l, Vector.length_toList]
  rfl

/-! ### CLEAR COUNTERS (R184) -/

theorem State.clearCounters_setService (s : State) (p : Port) (v : Service) :
    (s.setService p v).clearCounters = s.clearCounters.setService p v := by
  cases p <;> rfl

end Sys2Proof.Machine
end

section
open Sys2Proof Sys2Proof.Machine

/-- Settles O57: each read answers its bytes, field by field; the clear sets the counters to 0. -/
theorem statusReadsChangeNothing : Obligations.StatusReadsChangeNothing := by
  refine fun c p s => ⟨fun commanded => ?_, fun commanded => ?_, fun commanded => ?_, fun commanded => ?_,
    fun commanded => ?_, fun commanded => ?_, fun commanded holds => ?_⟩
  · refine ⟨_, serve_reads (f := authorityBytes c) commanded (by simp [authorityBytes]), ?_,
      Arbiter.yieldRemaining_idle, fun w left => Arbiter.yieldRemaining_waits⟩
    unfold authorityBytes authorityItem
    refine congr_arg₂ List.cons ?_ (congr_arg₂ List.cons ?_ rfl)
    · cases s.arbiter.holder with
      | none => rfl
      | some c => cases c <;> rfl
    · cases s.arbiter.waiting with
      | none => rfl
      | some c => cases c <;> rfl
  · refine ⟨_, serve_reads (f := linesBytes) commanded ?_, linesBytes_length s, ?_⟩
    · cases c <;> rfl
    · refine congr_arg₂ HAppend.hAppend rfl (congrArg (fun f => List.flatMap f (List.finRange 4)) (funext fun l => ?_))
      rw [lineStatusBytes, append_three]
      refine congr_arg₂ HAppend.hAppend (congr_arg₂ HAppend.hAppend (congr_arg₂ HAppend.hAppend
        (congr_arg₂ HAppend.hAppend (congr_arg₂ HAppend.hAppend (congr_arg₂ HAppend.hAppend ?state ?shown) ?bits)
        ?target) rfl) rfl) rfl
      case state => cases s.clock.lines[l].state <;> rfl
      case shown => cases s.clock.lines[l].shown <;> rfl
      case bits =>
        refine congr_arg₂ List.cons ?_ (congr_arg₂ List.cons ?_ (congr_arg₂ List.cons ?_ rfl))
        · cases s.clock.lines[l].polarity <;> rfl
        · cases s.clock.lines[l].state with
          | fault kind => cases kind <;> rfl
          | off | unknown | noTime | inStep | catching | waiting => rfl
        · cases s.clock.lines[l].impulse <;> rfl
      case target => cases s.clock.clockSet <;> cases s.clock.lines[l].shown <;> rfl
  · refine ⟨_, openBytes .absentReferenceRow, openBytes .emptyNoticeExpiry, openByte .emptyNoticePriority,
      openByte .absentItemPlace, openByte .absentItemPart,
      serve_reads (f := fun s => s.composer.bytes) commanded (by simp), Composer.bytes_length _, rfl, rfl, ?_⟩
    rw [Composer.bytes, Vector.flatMap_toList, Vector.flatMap_toList]
    refine congr_arg₂ HAppend.hAppend (congrArg (fun f => List.flatMap f (List.finRange 8)) (funext fun q => ?_))
      (congrArg (fun f => List.flatMap f (List.finRange 4)) (funext fun k => ?_))
    · cases s.composer.notices[q] with
      | none => rfl
      | some n =>
        unfold noticeBytes beOptMinute
        cases n.expiry <;> rfl
    · obtain _ | ⟨item, part⟩ := s.composer.views[k].cursor
      · rfl
      · cases item <;> rfl
  · refine ⟨_, serve_reads (f := cueStatusBytes) commanded ?_, cueStatusBytes_length s, ?_⟩
    · cases c <;> rfl
    · unfold cueStatusBytes
      dsimp only
      rw [append_eight, append_four]
      refine congr_arg₂ HAppend.hAppend (congr_arg₂ HAppend.hAppend (congr_arg₂ HAppend.hAppend (congr_arg₂ HAppend.hAppend
        rfl ?ages) ?playing) ?credits) rfl
      case ages =>
        refine Eq.trans (congrArg (fun f => List.flatMap f [CueClass.safety, .platform, .delay, .routine])
          (funext fun k => ?_)) (List.flatMap_map s.cues.queue _ [.safety, .platform, .delay, .routine]).symm
        unfold Cues.headAge
        cases s.cues.queue k with
        | nil => exact (by decide : be16 0 = [0, 0])
        | cons q qs => rfl
      case playing =>
        cases s.cues.playing with
        | none => rfl
        | some x =>
          unfold Cue.slotByte
          dsimp only
          cases x.cue.slot <;> rfl
      case credits =>
        cases s.settings.scheduling <;> rfl
  · refine ⟨_, serve_reads (f := counterBytes) commanded ?_, counterBytes_length s, ?_⟩
    · cases p <;> rfl
    · rw [counterBytes, Vector.flatMap_toList]
      refine congr_arg₂ HAppend.hAppend rfl (congrArg (fun f => List.flatMap f (List.finRange 4)) (funext fun k => ?_))
      rw [Link.counterBytes, Vector.toList_eq_map_finRange, List.map_map]
      refine congr_arg₂ HAppend.hAppend rfl (congrArg (fun f => List.map f (List.finRange 12)) (funext fun r => ?_))
      refine congrArg (fun n => byte (n + 4 * s.links[k].modules[r].absentRun)) ?_
      cases s.links[k].modules[r].last <;> rfl
  · exact ⟨_, Config.siliconRevision, serve_reads (f := fun s => s.ident.bytes) commanded (by simp), rfl⟩
  · refine ⟨s.clearCounters, serve_authorised_answers_withoutPayload commanded holds ?_, fun q => ?_, rfl, fun k => ?_, rfl,
      rfl⟩
    · rw [State.clearCounters_setService, done]
    · cases q <;> rfl
    · exact mapAll_get _ s.links k

end

section
/-! The chain links (chapter 7): the frame a link chooses, the close of an answer window and the end of a cycle. -/

namespace Sys2Proof.Machine

/-! ### One element of a vector replaced -/

theorem put_put {α : Type} {n : Nat} (v : Vector α n) (i : Fin n) (x y : α) : put (put v i x) i y = put v i y := by
  simp [put]

theorem put_same {α : Type} {n : Nat} (v : Vector α n) (i : Fin n) : put v i v[i.val] = v := by
  simp [put]

theorem put_here {α : Type} {n : Nat} (v : Vector α n) (i : Fin n) (x : α) : (put v i x)[i] = x := put_self v i x

theorem put_there {α : Type} {n : Nat} (v : Vector α n) {i j : Fin n} (h : j ≠ i) (x : α) : (put v i x)[j] = v[j] :=
  (put_get v i j x).trans (if_neg h)

theorem State.link_setLink (s : State) (c : Chain) (l : Link) : (s.setLink c l).links[c] = l := put_here _ _ _

/-! ### Rows passed at the composer (R106) -/

/-- A composition marked passed where the link has passed its row. -/
def Composition.passedBy (e : Composition) (c : Chain) (which : Nat → Bool) : Composition :=
  { e with passed := e.passed || decide (e.chain = c ∧ which e.row = true) }

theorem Composer.markPassed_eq (x : Composer) (c : Chain) (which : Nat → Bool) :
    x.markPassed c which = { x with engine := x.engine.map fun e => e.passedBy c which } := by
  unfold Composer.markPassed
  refine congrArg (fun f => ({ x with engine := x.engine.map f } : Composer)) (funext fun e => ?_)
  unfold Composition.passedBy
  split
  · next here => rw [decide_eq_true here, Bool.or_true]
  · next other => rw [decide_eq_false other, Bool.or_false]

/-- The composer with a row of a chain passed. -/
def Composer.passed (x : Composer) (c : Chain) (k : Nat) : Composer :=
  { x with
    engine := x.engine.map fun e => e.passedBy c (· == k)
    views := put x.views c { x.views[c] with
      nextRow := if x.views[c].nextRow ≤ k then k + 1 else x.views[c].nextRow } }

theorem State.passRow_eq (s : State) (c : Chain) (k : Nat) :
    s.passRow c k = { s with composer := s.composer.passed c k } := by
  unfold State.passRow Composer.passed
  dsimp only
  rw [Composer.markPassed_eq]
  split
  · rfl
  · rw [show ({ s.composer.views[c] with nextRow := s.composer.views[c].nextRow } : ChainView) = s.composer.views[c.val]
      from rfl, put_same]

theorem Composer.passed_spec (x : Composer) (c : Chain) (k : Nat) :
    (x.passed c k).views[c] = { x.views[c] with
      nextRow := if x.views[c].nextRow ≤ k then k + 1 else x.views[c].nextRow } ∧
    (x.engine = none → (x.passed c k).engine = none) ∧
    (∀ e, x.engine = some e →
      (x.passed c k).engine = some { e with passed := e.passed || decide (e.chain = c ∧ e.row = k) }) ∧
    (∀ j : Chain, j ≠ c → (x.passed c k).views[j] = x.views[j]) ∧
    x.passed c k = { x with engine := (x.passed c k).engine, views := (x.passed c k).views } := by
  refine ⟨put_here _ _ _, fun idle => ?_, fun e busy => ?_, fun j other => put_there _ other _, rfl⟩
  · rw [Composer.passed, idle]
    rfl
  · rw [Composer.passed, busy]
    simp only [Option.map_some, Composition.passedBy, beq_iff_eq]

/-! ### The choice of a frame (R125) -/

theorem State.readyFor_image {s : State} {c : Chain} {k : Nat} {image : LineImage} {rest : List FeedPlace}
    (feed : s.links[c].feed = .image k image :: rest) : s.readyFor c k = s.setLink c { s.links[c] with
      state := .rowOut k (.forRow k (.row s.composer.views[c].plan.width image)), feed := rest } := by
  have head : feedImage k s.links[c].feed = some image := by
    rw [feed]
    exact if_pos rfl
  unfold State.readyFor
  dsimp only
  rw [head]
  dsimp only
  rw [feed]
  rfl

/-- A link sent out for a row without its image: a REPEAT, counted as stale, or a blank frame in a disabled cycle. -/
def Link.withoutImage (l : Link) (k w : Nat) : Link :=
  if l.disabled then { l with state := .rowOut k (.forRow k (.blank w)) }
  else { l with state := .rowOut k (.forRow k .repeated), stale := increment l.stale }

theorem State.readyFor_none {s : State} {c : Chain} {k : Nat} (head : feedImage k s.links[c].feed = none) :
    s.readyFor c k = { s with
      links := put s.links c (s.links[c].withoutImage k s.composer.views[c].plan.width)
      composer := s.composer.passed c k } := by
  unfold State.readyFor Link.withoutImage
  dsimp only
  rw [head]
  dsimp only
  split
  · exact State.passRow_eq _ _ _
  · exact State.passRow_eq _ _ _

theorem feedImage_none {k : Nat} {feed : List FeedPlace} (h : feed = [] ∨ ∃ rest, feed = .reserved k :: rest) :
    feedImage k feed = none := by
  obtain rfl | ⟨rest, rfl⟩ := h <;> rfl

theorem State.readyFor_readies (s : State) (c : Chain) (k : Nat) : s.readies (s.readyFor c k) c k := by
  refine ⟨fun image rest feed => ?_, fun empty => ?_⟩
  · rw [State.readyFor_image feed, State.link_setLink]
    exact ⟨rfl, rfl, rfl, rfl⟩
  · rw [State.readyFor_none (feedImage_none empty)]
    obtain ⟨view, idle, busy, others, frame⟩ := s.composer.passed_spec c k
    have link := put_here s.links c (s.links[c].withoutImage k s.composer.views[c].plan.width)
    refine ⟨(congrArg Link.feed link).trans ?_, fun enabled => ⟨?_, ?_⟩, fun disabled => ⟨?_, ?_⟩, view, idle, busy, others,
      frame⟩
    · unfold Link.withoutImage
      split <;> rfl
    · refine (congrArg Link.state link).trans ?_
      rw [Link.withoutImage, enabled]
      rfl
    · refine (congrArg Link.stale link).trans ?_
      rw [Link.withoutImage, enabled]
      exact increment_eq _
    · refine (congrArg Link.state link).trans ?_
      rw [Link.withoutImage, disabled]
      rfl
    · refine (congrArg Link.stale link).trans ?_
      rw [Link.withoutImage, disabled]
      rfl

/-- Whatever frame a link chooses, it changes the link's state, feed and stale counter, and the composer. -/
theorem State.readyFor_frame (s : State) (c : Chain) (k : Nat) :
    s.readyFor c k = { s with links := (s.readyFor c k).links, composer := (s.readyFor c k).composer } ∧
    ∃ g feed stale, (s.readyFor c k).links = put s.links c { s.links[c] with
      state := .rowOut k g, feed := feed, stale := stale } := by
  cases head : feedImage k s.links[c].feed with
  | none =>
    rw [State.readyFor_none head]
    refine ⟨rfl, ?_⟩
    unfold Link.withoutImage
    split
    · exact ⟨_, _, _, rfl⟩
    · exact ⟨_, _, _, rfl⟩
  | some image =>
    unfold State.readyFor
    dsimp only
    rw [head]
    exact ⟨rfl, _, _, _, rfl⟩

theorem State.readies.of_same {s u t : State} {c : Chain} {k : Nat} (h : u.readies t c k)
    (composer : u.composer = s.composer) (feed : u.links[c].feed = s.links[c].feed)
    (stale : u.links[c].stale = s.links[c].stale) (disabled : u.links[c].disabled = s.links[c].disabled) :
    s.readies t c k := by
  unfold State.readies at h ⊢
  rwa [composer, feed, stale, disabled] at h

/-! ### Module status entries (R127, R128) -/

theorem moduleIndex_succ (i : Fin 12) : moduleIndex (i.val + 1) = i := by
  refine Fin.ext ?_
  show (i.val + 1 - 1) % 12 = i.val
  omega

/-- A link with an answer put in the entry of a row: an absence makes the cycle unclean, and the third in a row sets the
fault flag and counts. -/
def Link.updated (l : Link) (i : Fin 12) (a : LastAnswer) : Link :=
  { l with
    modules := put l.modules i (l.modules[i].after a)
    clean := if a = .absent then false else l.clean
    absent := if a = .absent ∧ l.modules[i].absentRun = 2 then increment l.absent else l.absent
    fault := if a = .absent ∧ l.modules[i].absentRun = 2 then true else l.fault }

/-- The update of a row's entry, by the entry's place. -/
theorem State.updateModule_at (s : State) (c : Chain) {k : Nat} {j : Fin 12} (h : moduleIndex k = j) (a : LastAnswer) :
    s.updateModule c k a =
      if a = .absent then
        if s.links[c].modules[j].absentRun = 2 then
          ((s.setLink c { s.links[c] with
            modules := put s.links[c].modules j (s.links[c].modules[j].after a)
            clean := false, absent := increment s.links[c].absent }).setFault c true).raiseRouted (.chainFault c k)
        else s.setLink c { s.links[c] with
          modules := put s.links[c].modules j (s.links[c].modules[j].after a), clean := false }
      else s.setLink c { s.links[c] with modules := put s.links[c].modules j (s.links[c].modules[j].after a) } := by
  subst h
  rfl

/-- The update of an entry that is no third absence in a row. -/
theorem State.updateModule_plain {s : State} {c : Chain} {i : Fin 12} {a : LastAnswer}
    (plain : ¬ (a = .absent ∧ s.links[c].modules[i].absentRun = 2)) :
    s.updateModule c (i.val + 1) a = s.setLink c (s.links[c].updated i a) := by
  rw [State.updateModule_at s c (moduleIndex_succ i), Link.updated, if_neg plain, if_neg plain]
  by_cases absent : a = .absent
  · rw [if_pos absent, if_neg fun two => plain ⟨absent, two⟩, if_pos absent]
  · rw [if_neg absent, if_neg absent]

theorem Link.updated_third {l : Link} {i : Fin 12} (two : l.modules[i].absentRun = 2) : l.updated i .absent = { l with
    modules := put l.modules i (l.modules[i].after .absent), clean := false, absent := increment l.absent
    fault := true } := by
  have third : LastAnswer.absent = .absent ∧ l.modules[i].absentRun = 2 := ⟨rfl, two⟩
  rw [Link.updated, if_pos rfl, if_pos third, if_pos third]

/-- The third absence in a row (R128). -/
theorem State.updateModule_third {s : State} {c : Chain} {i : Fin 12} (two : s.links[c].modules[i].absentRun = 2) :
    s.updateModule c (i.val + 1) .absent =
      ((s.setLink c { s.links[c].updated i .absent with fault := s.links[c].fault }).setFault c true).raiseRouted
        (.chainFault c (i.val + 1)) := by
  rw [State.updateModule_at s c (moduleIndex_succ i), Link.updated_third two, if_pos rfl, if_pos two]

theorem State.setFault_frame (s : State) (c : Chain) (b : Bool) : s.setFault c b = { s with
    links := put s.links c { s.links[c] with fault := b }, ports := (s.setFault c b).ports } := by
  apply State.eq_of_fields <;> simp [State.setFault, State.setLink]

theorem State.setFault_setLink (s : State) (c : Chain) (l : Link) (b : Bool) : (s.setLink c l).setFault c b = { s with
    links := put s.links c { l with fault := b }, ports := ((s.setLink c l).setFault c b).ports } := by
  refine (State.setFault_frame _ _ _).trans ?_
  rw [State.link_setLink]
  exact congrArg (fun links => ({ s with links := links, ports := _ } : State)) (put_put _ _ _ _)

theorem State.updateModule_frame (s : State) (c : Chain) (i : Fin 12) (a : LastAnswer) :
    s.updateModule c (i.val + 1) a = { s with
      links := put s.links c (s.links[c].updated i a), ports := (s.updateModule c (i.val + 1) a).ports } := by
  by_cases third : a = .absent ∧ s.links[c].modules[i].absentRun = 2
  · obtain ⟨rfl, two⟩ := third
    rw [State.updateModule_third two]
    have faulted : { ({ s.links[c].updated i .absent with fault := s.links[c].fault } : Link) with fault := true } =
        s.links[c].updated i .absent := by
      rw [Link.updated_third two]
    have frame := s.setFault_setLink c { s.links[c].updated i .absent with fault := s.links[c].fault } true
    rw [faulted] at frame
    refine (State.raiseRouted_spec _ _).trans ?_
    generalize (State.raiseRouted _ _).ports = ports
    rw [frame]
  · rw [State.updateModule_plain third]
    rfl

theorem State.updateModule_ports (s : State) (c : Chain) (i : Fin 12) (a : LastAnswer) :
    (¬ (a = .absent ∧ s.links[c].modules[i].absentRun = 2) → (s.updateModule c (i.val + 1) a).ports = s.ports) ∧
    (a = .absent → s.links[c].modules[i].absentRun = 2 →
      (s.ports.p0.watch = none → s.ports.p1.watch = none →
        (s.updateModule c (i.val + 1) a).ports = (s.raiseRouted (.chainFault c (i.val + 1))).ports) ∧
      ∀ q : Ctrl, s.routes s.settings.routing.chainFault q → (s.port q.port).enables.getLsbD 11 = true →
        Event.chainFault c (i.val + 1) ∈ ((s.updateModule c (i.val + 1) a).port q.port).events) := by
  refine ⟨fun plain => ?_, fun absent two => ⟨fun p0 p1 => ?_, fun q routes on => ?_⟩⟩
  · rw [State.updateModule_plain plain]
    rfl
  · rw [absent, State.updateModule_third two]
    refine State.raiseRouted_ports ?_ ?_ ?_ _
    · rw [State.setFault, State.noted_unwatched _ _ (by exact p0) (by exact p1)]
      rfl
    · rw [State.setFault_setLink]
    · rw [State.setFault_setLink]
  · rw [absent, State.updateModule_third two]
    have frame := s.setFault_setLink c { s.links[c].updated i .absent with fault := s.links[c].fault } true
    refine State.mem_events_raiseRouted (r := s.settings.routing.chainFault) ?_ ?_ ?_
    · rw [frame]; rfl
    · rw [frame]; exact routes
    · rw [State.setFault, State.enables_noted]
      exact on

/-! ### The end of a cycle (R128) -/

/-- The link at the end of its cycle: the fault flag cleared where every row answered (R128). -/
def Link.ended (l : Link) : Link :=
  { l with
    fault := l.fault && !l.clean
    state := if l.disabled then .halted else .ended
    refresh := if l.disabled then .stopped else l.refresh }

/-- The composer told of the end of a cycle (R106). -/
def Composer.cycleEnded (x : Composer) (c : Chain) : Composer :=
  { x with
    engine := x.engine.map fun e => e.passedBy c fun _ => true
    views := put x.views c { x.views[c] with running := false } }

theorem Composer.cycleEnded_spec (x : Composer) (c : Chain) :
    (x.cycleEnded c).views[c] = { x.views[c] with running := false } ∧
    (∀ j : Chain, j ≠ c → (x.cycleEnded c).views[j] = x.views[j]) ∧
    (∀ e, x.engine = some e → (x.cycleEnded c).engine = some { e with passed := e.passed || decide (e.chain = c) }) ∧
    (x.engine = none → (x.cycleEnded c).engine = none) ∧
    x.cycleEnded c = { x with engine := (x.cycleEnded c).engine, views := (x.cycleEnded c).views } := by
  refine ⟨put_here _ _ _, fun j other => put_there _ other _, fun e busy => ?_, fun idle => ?_, rfl⟩
  · rw [Composer.cycleEnded, busy]
    simp only [Option.map_some, Composition.passedBy, and_true]
  · rw [Composer.cycleEnded, idle]
    rfl

/-- The fault flag cleared where every row of the cycle answered (R128). -/
def State.judgeFault (s : State) (c : Chain) : State := if s.links[c].clean then s.setFault c false else s

theorem State.judgeFault_frame (s : State) (c : Chain) :
    s.judgeFault c = { s with
      links := put s.links c { s.links[c] with fault := s.links[c].fault && !s.links[c].clean }
      ports := (s.judgeFault c).ports } ∧
    (s.links[c].clean = false → (s.judgeFault c).ports = s.ports) := by
  unfold State.judgeFault
  cases clean : s.links[c].clean with
  | true =>
    refine ⟨?_, nofun⟩
    rw [if_pos rfl, Bool.not_true, Bool.and_false]
    exact s.setFault_frame c false
  | false =>
    refine ⟨?_, fun _ => rfl⟩
    rw [if_neg Bool.false_ne_true, Bool.not_false, Bool.and_true]
    exact congrArg (fun links => ({ s with links := links } : State)) (put_same s.links c).symm

/-- The composer told, and the link in ENDED or HALTED (R106, R128). -/
def State.closeCycle (s : State) (c : Chain) : State :=
  { s with
    composer := s.composer.cycleEnded c
    links := put s.links c (if s.links[c].disabled then { s.links[c] with state := .halted, refresh := .stopped }
      else { s.links[c] with state := .ended }) }

theorem State.endCycle_eq (s : State) (c : Chain) : s.endCycle c = (s.judgeFault c).closeCycle c := by
  unfold State.endCycle State.closeCycle Composer.cycleEnded
  dsimp only
  rw [Composer.markPassed_eq]
  rfl

theorem State.endCycle_frame (s : State) (c : Chain) :
    s.endCycle c = { s with
      links := put s.links c s.links[c].ended, composer := s.composer.cycleEnded c, ports := (s.endCycle c).ports } ∧
    (s.links[c].clean = false → (s.endCycle c).ports = s.ports) := by
  obtain ⟨frame, silent⟩ := s.judgeFault_frame c
  rw [State.endCycle_eq]
  refine ⟨?_, silent⟩
  show (s.judgeFault c).closeCycle c = { s with
    links := put s.links c s.links[c].ended, composer := s.composer.cycleEnded c, ports := (s.judgeFault c).ports }
  generalize s.judgeFault c = u at frame
  generalize u.ports = ports at frame ⊢
  subst frame
  have judged := put_here s.links c { s.links[c] with fault := s.links[c].fault && !s.links[c].clean }
  unfold State.closeCycle Link.ended
  dsimp only
  rw [judged, put_put]
  cases s.links[c].disabled <;> rfl

/-! ### The close of a window (R126) -/

theorem Link.updated_same {l : Link} {i : Fin 12} {a : LastAnswer} :
    (l.updated i a).rowCount = l.rowCount ∧ (l.updated i a).disabled = l.disabled ∧ (l.updated i a).feed = l.feed ∧
    (l.updated i a).stale = l.stale ∧ (l.updated i a).refresh = l.refresh :=
  ⟨rfl, rfl, rfl, rfl, rfl⟩

/-- Below the last row the link is made ready for the next (R126). -/
theorem State.closeWindow_next {s : State} {c : Chain} {i : Fin 12} (a : LastAnswer)
    (more : i.val + 1 < s.links[c].rowCount) :
    s.readies (s.closeWindow c (i.val + 1) a) c (i.val + 2) ∧
    (∃ g feed stale composer, s.closeWindow c (i.val + 1) a = { s with
      links := put s.links c { s.links[c].updated i a with state := .rowOut (i.val + 2) g, feed := feed, stale := stale }
      composer := composer, ports := (s.updateModule c (i.val + 1) a).ports }) := by
  have frame := s.updateModule_frame c i a
  unfold State.closeWindow
  dsimp only
  generalize s.updateModule c (i.val + 1) a = u at frame ⊢
  generalize u.ports = ports at frame ⊢
  have link : u.links[c] = s.links[c].updated i a := by
    rw [frame]
    exact put_here _ _ _
  have composer : u.composer = s.composer := by rw [frame]
  rw [if_pos (by rw [link]; exact more)]
  refine ⟨(u.readyFor_readies c (i.val + 2)).of_same composer (by rw [link]; rfl) (by rw [link]; rfl) (by rw [link]; rfl), ?_⟩
  obtain ⟨whole, g, feed, stale, links⟩ := u.readyFor_frame c (i.val + 2)
  refine ⟨g, feed, stale, (u.readyFor c (i.val + 2)).composer, whole.trans ?_⟩
  rw [links, link]
  subst frame
  dsimp only
  rw [put_put]

/-- At the last row the cycle ends (R128). -/
theorem State.closeWindow_last {s : State} {c : Chain} {i : Fin 12} (a : LastAnswer)
    (last : s.links[c].rowCount ≤ i.val + 1) :
    s.closeWindow c (i.val + 1) a = { s with
      links := put s.links c (s.links[c].updated i a).ended, composer := s.composer.cycleEnded c
      ports := (s.closeWindow c (i.val + 1) a).ports } ∧
    ((s.links[c].updated i a).clean = false →
      (s.closeWindow c (i.val + 1) a).ports = (s.updateModule c (i.val + 1) a).ports) := by
  have frame := s.updateModule_frame c i a
  unfold State.closeWindow
  dsimp only
  generalize s.updateModule c (i.val + 1) a = u at frame ⊢
  have link : u.links[c] = s.links[c].updated i a := by
    rw [frame]
    exact put_here _ _ _
  rw [if_neg (by rw [link]; exact Nat.not_lt.mpr last)]
  obtain ⟨ended, silent⟩ := u.endCycle_frame c
  rw [link] at ended silent
  refine ⟨?_, silent⟩
  generalize u.endCycle c = t at ended ⊢
  generalize t.ports = after at ended ⊢
  generalize u.ports = ports at frame
  subst frame
  refine ended.trans ?_
  dsimp only
  rw [put_put]

/-- What the close of a window changes of the links: the entry of its row, and the fields of the next frame or of the
cycle's end. -/
theorem State.closeWindow_frame (s : State) (c : Chain) (i : Fin 12) (a : LastAnswer) :
    s.closeWindow c (i.val + 1) a = { s with
      links := (s.closeWindow c (i.val + 1) a).links, composer := (s.closeWindow c (i.val + 1) a).composer
      ports := (s.closeWindow c (i.val + 1) a).ports } ∧
    (∀ j : Chain, j ≠ c → (s.closeWindow c (i.val + 1) a).links[j] = s.links[j]) ∧
    ∃ state feed stale fault refresh, (s.closeWindow c (i.val + 1) a).links[c] = { s.links[c].updated i a with
      state := state, feed := feed, stale := stale, fault := fault, refresh := refresh } := by
  by_cases more : i.val + 1 < s.links[c].rowCount
  · obtain ⟨-, g, feed, stale, composer, frame⟩ := State.closeWindow_next a more
    rw [frame]
    exact ⟨rfl, fun j other => put_there _ other _, _, _, _, _, _, put_here _ _ _⟩
  · obtain ⟨frame, -⟩ := State.closeWindow_last a (Nat.le_of_not_lt more)
    rw [frame]
    exact ⟨rfl, fun j other => put_there _ other _, _, _, _, _, _, put_here _ _ _⟩

theorem State.closeWindow_next_link {s : State} {c : Chain} {i : Fin 12} (a : LastAnswer)
    (more : i.val + 1 < s.links[c].rowCount) :
    (s.closeWindow c (i.val + 1) a).ports = (s.updateModule c (i.val + 1) a).ports ∧
    ∃ g feed stale, (s.closeWindow c (i.val + 1) a).links[c] =
      { s.links[c].updated i a with state := .rowOut (i.val + 2) g, feed := feed, stale := stale } := by
  obtain ⟨-, g, feed, stale, composer, frame⟩ := State.closeWindow_next a more
  rw [frame]
  exact ⟨rfl, g, feed, stale, put_here _ _ _⟩

theorem State.closeWindow_last_link {s : State} {c : Chain} {i : Fin 12} (a : LastAnswer)
    (last : s.links[c].rowCount ≤ i.val + 1) :
    (s.closeWindow c (i.val + 1) a).links[c] = (s.links[c].updated i a).ended ∧
    (s.closeWindow c (i.val + 1) a).composer = s.composer.cycleEnded c := by
  obtain ⟨frame, -⟩ := State.closeWindow_last a last
  rw [frame]
  exact ⟨put_here _ _ _, rfl⟩

/-- An absence raises nothing but what the update of its entry does: its cycle is not clean. -/
theorem State.closeWindow_absent (s : State) (c : Chain) (i : Fin 12) :
    (s.closeWindow c (i.val + 1) .absent).ports = (s.updateModule c (i.val + 1) .absent).ports ∧
    (s.closeWindow c (i.val + 1) .absent).links[c].fault = (s.links[c].updated i .absent).fault := by
  by_cases more : i.val + 1 < s.links[c].rowCount
  · obtain ⟨ports, g, feed, stale, link⟩ := State.closeWindow_next_link (i := i) .absent more
    rw [link]
    exact ⟨ports, rfl⟩
  · obtain ⟨link, -⟩ := State.closeWindow_last_link (i := i) .absent (Nat.le_of_not_lt more)
    rw [link]
    exact ⟨(State.closeWindow_last .absent (Nat.le_of_not_lt more)).2 rfl, Bool.and_true _⟩

theorem Link.updated_modules (l : Link) (i : Fin 12) (a : LastAnswer) :
    (l.updated i a).modules[i] = l.modules[i].after a ∧
    ∀ j : Fin 12, j ≠ i → (l.updated i a).modules[j] = l.modules[j] :=
  ⟨put_here _ _ _, fun _ other => put_there _ other _⟩

theorem Link.updated_answered {l : Link} {i : Fin 12} {a : LastAnswer} (answered : a ≠ .absent) :
    l.updated i a = { l with modules := put l.modules i (l.modules[i].after a) } := by
  have none_ : ¬ (a = .absent ∧ l.modules[i].absentRun = 2) := fun h => answered h.1
  rw [Link.updated, if_neg answered, if_neg none_, if_neg none_]

end Sys2Proof.Machine
end

section
open Sys2Proof Sys2Proof.Machine

/-- Settles O45: the frame of row 1 by the head of the feed, and the window opened behind it. -/
theorem linksChooseTheirFrames : Obligations.LinksChooseTheirFrames := by
  refine ⟨fun c w s operates lead width => ?_, fun k x => ⟨_, rfl⟩, fun c k f s operates out => ?_⟩
  · have served : exec (.leadEnd c) s = .next (s.readyFor c 1) := by
      show execLeadEnd c s = _
      rw [execLeadEnd, whenOperating_operating operates, if_pos lead]
    subst width
    refine ⟨fun image rest feed => ?_, fun empty => ⟨_, served, ?_⟩⟩
    · rw [served, State.readyFor_image feed]
    · rw [State.readyFor_none (feedImage_none empty)]
      obtain ⟨view, idle, busy, others, frame⟩ := s.composer.passed_spec c 1
      have link := put_here s.links c (s.links[c].withoutImage 1 s.composer.views[c].plan.width)
      refine ⟨fun enabled => link.trans ?_, fun disabled => link.trans ?_, view, busy, idle,
        fun k other => ⟨put_there _ other _, others k other⟩, rfl⟩
      · rw [Link.withoutImage, if_neg (by rw [enabled]; exact Bool.false_ne_true), increment_eq]
      · rw [Link.withoutImage, if_pos disabled]
  · show execChainFrameSent c s = _
    rw [execChainFrameSent, whenOperating_operating operates, out]

/-- Settles O46: an answer or an absence in the row's entry, then the next row's frame or the end of the cycle. -/
theorem windowsCloseWithAnAnswerOrAbsent : Obligations.WindowsCloseWithAnAnswerOrAbsent := by
  rintro c k i f s operates waits rfl
  refine ⟨fun row st good other => ?_, fun st => ?_, ?_⟩
  · show execModuleAnswer c row st good s = _
    rw [execModuleAnswer, whenOperating_operating operates, waits]
    refine congrArg Host.Outcome.next (if_neg ?_)
    rintro ⟨valid, row_⟩
    obtain bad | elsewhere := other
    · exact absurd valid (by rw [bad]; exact Bool.false_ne_true)
    · exact elsewhere row_
  · have served : exec (.moduleAnswer c (i.val + 1) st true) s = .next (s.closeWindow c (i.val + 1) (answerOf st)) := by
      show execModuleAnswer c _ st true s = _
      rw [execModuleAnswer, whenOperating_operating operates, waits]
      exact congrArg Host.Outcome.next (if_pos ⟨rfl, rfl⟩)
    have answered : answerOf st ≠ .absent := by cases st <;> nofun
    have updated := Link.updated_answered (l := s.links[c]) (i := i) answered
    obtain ⟨frame, others, state, feed, stale, fault, refresh, link⟩ := s.closeWindow_frame c i (answerOf st)
    obtain ⟨entry, entries⟩ := s.links[c].updated_modules i (answerOf st)
    rw [updated] at link entry entries
    refine ⟨_, served, ?_, fun j other => ?_, by rw [link], by rw [link], by rw [link], by rw [link], others, frame,
      fun more => ?_, fun last => ?_⟩
    · rw [link]
      exact entry.trans (by cases st <;> rfl)
    · rw [link]
      exact entries j other
    · obtain ⟨ports, g, feed, stale, link⟩ := State.closeWindow_next_link (answerOf st) more
      rw [updated] at link
      rw [link, ports, (s.updateModule_ports c i (answerOf st)).1 fun h => answered h.1]
      exact ⟨rfl, rfl, rfl, (State.closeWindow_next (answerOf st) more).1, g, rfl⟩
    · obtain ⟨link, composer⟩ := State.closeWindow_last_link (answerOf st) last
      obtain ⟨view, views, busy, idle, whole⟩ := s.composer.cycleEnded_spec c
      rw [updated] at link
      rw [link, composer]
      exact ⟨view, views, busy, idle, whole, rfl, rfl, rfl, rfl, rfl⟩
  · have served : exec (.answerWindowExpiry c) s = .next (s.closeWindow c (i.val + 1) .absent) := by
      show execAnswerWindowExpiry c s = _
      rw [execAnswerWindowExpiry, whenOperating_operating operates, waits]
    obtain ⟨frame, others, state, feed, stale, fault, refresh, link⟩ := s.closeWindow_frame c i .absent
    obtain ⟨entry, entries⟩ := s.links[c].updated_modules i .absent
    obtain ⟨ports, fault_⟩ := s.closeWindow_absent c i
    obtain ⟨plain, third⟩ := s.updateModule_ports c i .absent
    refine ⟨_, served, ?_, fun j other => ?_, by rw [link]; rfl, by rw [link]; rfl, by rw [link]; rfl, fun two => ?_,
      fun fewer => ?_, fun more => ?_, fun last => ?_, others, frame⟩
    · rw [link]
      exact entry
    · rw [link]
      exact entries j other
    · obtain ⟨unwatched, raised⟩ := third rfl two
      have updated := Link.updated_third two
      refine ⟨by rw [fault_, updated], ?_, fun q routes on => ?_, fun p0 p1 => ports.trans (unwatched p0 p1)⟩
      · rw [link, updated, ← increment_eq]
      · rw [State.port_congr ports]
        exact raised q routes on
    · have fewer' : ¬ (LastAnswer.absent = .absent ∧ s.links[c].modules[i].absentRun = 2) := fun h => fewer h.2
      refine ⟨?_, ?_, ports.trans (plain fewer')⟩
      · rw [fault_, Link.updated, if_neg fewer']
      · rw [link]
        exact if_neg fewer'
    · obtain ⟨-, g, feed, stale, link⟩ := State.closeWindow_next_link (i := i) .absent more
      rw [link]
      exact ⟨rfl, (State.closeWindow_next .absent more).1, g, rfl⟩
    · obtain ⟨link, composer⟩ := State.closeWindow_last_link (i := i) .absent last
      obtain ⟨view, views, busy, idle, whole⟩ := s.composer.cycleEnded_spec c
      rw [link, composer]
      exact ⟨view, views, busy, idle, whole, rfl, rfl, rfl, rfl⟩

end

section
/-! Events, enables and watches (10.4, 10.5). -/

namespace Sys2Proof.Machine

/-! ### Routed events (R177, R180) -/

theorem State.port_raiseBoth (s : State) (e : Event) (q : Ctrl) :
    (s.raiseBoth e).port q.port = (s.port q.port).enter e := by
  unfold State.raiseBoth
  cases q <;> simp [State.port_raise, Ctrl.port]

theorem State.port_raiseBoth_cp (s : State) (e : Event) : (s.raiseBoth e).port .cp = s.port .cp := by
  simp [State.raiseBoth, State.port_raise]

theorem Ctrl.port_ne_cp (c : Ctrl) : c.port ≠ .cp := by cases c <;> decide

/-- A routed event leaves the Cue Port, and every control port its routing item does not direct it to (R180). -/
theorem State.port_raiseRouted {s : State} {e : Event} {r : Route} (route : e.route s.settings.routing = some r) :
    (s.raiseRouted e).port .cp = s.port .cp ∧ ∀ q : Ctrl,
      ((r = .both ∨ (r = .holder ∧ (s.arbiter.holder = none ∨ s.arbiter.holder = some q))) →
        (s.raiseRouted e).port q.port = (s.port q.port).enter e) ∧
      ((r = .none ∨ (r = .holder ∧ s.arbiter.holder = some q.other)) →
        (s.raiseRouted e).port q.port = s.port q.port) := by
  unfold State.raiseRouted
  rw [route]
  cases r with
  | none => exact ⟨rfl, fun q => ⟨by rintro (h | ⟨h, -⟩) <;> exact absurd h nofun, fun _ => rfl⟩⟩
  | both =>
    refine ⟨s.port_raiseBoth_cp e, fun q => ⟨fun _ => s.port_raiseBoth e q, ?_⟩⟩
    rintro (h | ⟨h, -⟩) <;> exact absurd h nofun
  | holder =>
    cases holder : s.arbiter.holder with
    | none =>
      refine ⟨s.port_raiseBoth_cp e, fun q => ⟨fun _ => s.port_raiseBoth e q, ?_⟩⟩
      rintro (h | ⟨-, h⟩) <;> exact absurd h nofun
    | some c =>
      refine ⟨(s.port_raise _ _ e).trans (if_neg (Ctrl.port_ne_cp c).symm), fun q => ⟨?_, ?_⟩⟩
      · rintro (h | ⟨-, h | h⟩)
        · exact absurd h nofun
        · exact absurd h nofun
        · cases h
          exact (s.port_raise _ _ e).trans (if_pos rfl)
      · rintro (h | ⟨-, h⟩)
        · exact absurd h nofun
        · cases h
          exact (s.port_raise _ _ e).trans (if_neg (Ctrl.port_other_ne q))

theorem Ctrl.eq_other {c q : Ctrl} : c ≠ q → c = q.other := by
  cases c <;> cases q <;> simp [Ctrl.other]

/-- A routing item that does not direct an event to a port. -/
theorem Route.unreached {r : Route} {holder : Option Ctrl} {q : Ctrl}
    (h : ¬ (r = .both ∨ (r = .holder ∧ (holder = none ∨ holder = some q)))) :
    r = .none ∨ (r = .holder ∧ holder = some q.other) := by
  cases r with
  | none => exact .inl rfl
  | both => exact absurd (.inl rfl) h
  | holder =>
    cases holder with
    | none => exact absurd (.inr ⟨rfl, .inl rfl⟩) h
    | some c =>
      exact .inr ⟨rfl, congrArg some (Ctrl.eq_other fun same => h (.inr ⟨rfl, .inr (congrArg some same)⟩))⟩

/-! ### Changes offered to the watches (R182) -/

/-- A change of the status vector offered to the watch of one port. -/
def PortState.offered (ps : PortState) (before now : List Byte) : PortState :=
  match ps.watch with
  | none => ps
  | some w =>
    if (List.range 11).any (fun i => w.mask.getLsbD i && before[i]? != now[i]? && w.values[i]? != now[i]?) then
      ({ ps with watch := none } : PortState).enter (.watchFired (w.differing now) now)
    else ps

theorem State.offerTo_eq (c : Ctrl) (before : List Byte) (s : State) :
    State.offerTo c before s = s.setPort c.port ((s.port c.port).offered before (statusVector s)) := by
  unfold State.offerTo PortState.offered
  cases (s.port c.port).watch with
  | none => exact (State.setPort_self rfl).symm
  | some w =>
    dsimp only
    split
    · exact s.fireWatch_spec c _
    · exact (State.setPort_self rfl).symm

theorem State.noted_ports (old new : State) : (old.noted new).port .cp = new.port .cp ∧
    ∀ c : Ctrl, (old.noted new).port c.port = (new.port c.port).offered (statusVector old) (statusVector new) := by
  unfold State.noted
  rw [State.offerTo_eq, State.offerTo_eq, statusVector_setPort]
  refine ⟨by simp [State.port_setPort_cases, Ctrl.port], fun c => ?_⟩
  cases c <;> simp [State.port_setPort_cases, Ctrl.port]

theorem State.ports_eq {s t : State} (h : ∀ p, s.port p = t.port p) : s.ports = t.ports := by
  have p0 : s.ports.p0 = t.ports.p0 := h .p0
  have p1 : s.ports.p1 = t.ports.p1 := h .p1
  have cp : s.ports.cp = t.ports.cp := h .cp
  cases hs : s.ports
  cases ht : t.ports
  rw [hs, ht] at p0 p1 cp
  simp_all

/-- What a change fires hangs on the two status vectors and the ports (R182). -/
theorem State.noted_ports_congr {old old' new new' : State} (before : statusVector old = statusVector old')
    (now : statusVector new = statusVector new') (ports : new.ports = new'.ports) :
    (old.noted new).ports = (old'.noted new').ports := by
  have control (c : Ctrl) : (old.noted new).port c.port = (old'.noted new').port c.port := by
    rw [(State.noted_ports old new).2, (State.noted_ports old' new').2, before, now, State.port_congr ports]
  refine State.ports_eq fun p => ?_
  cases p with
  | p0 => exact control .p0
  | p1 => exact control .p1
  | cp => rw [(State.noted_ports old new).1, (State.noted_ports old' new').1, State.port_congr ports]

theorem PortState.offered_kept {ps : PortState} {before now : List Byte} {w : Watch} (kept : ps.watch = some w)
    (still : ∀ i, i < 11 → w.mask.getLsbD i = true → before[i]? = now[i]? ∨ w.values[i]? = now[i]?) :
    ps.offered before now = ps := by
  unfold PortState.offered
  rw [kept]
  refine if_neg fun fires => ?_
  obtain ⟨i, member, fires⟩ := List.any_eq_true.mp fires
  simp only [Bool.and_eq_true, bne_iff_ne] at fires
  obtain ⟨⟨masked, changed⟩, differs⟩ := fires
  exact (still i (List.mem_range.mp member) masked).elim changed differs

theorem PortState.offered_fires {ps : PortState} {before now : List Byte} {w : Watch} (kept : ps.watch = some w) {i : Nat}
    (low : i < 11) (masked : w.mask.getLsbD i = true) (changed : before[i]? ≠ now[i]?) (differs : w.values[i]? ≠ now[i]?) :
    ps.offered before now = ({ ps with watch := none } : PortState).enter (.watchFired (w.differing now) now) := by
  unfold PortState.offered
  rw [kept]
  refine if_pos (List.any_eq_true.mpr ⟨i, List.mem_range.mpr low, ?_⟩)
  simp only [Bool.and_eq_true, bne_iff_ne]
  exact ⟨⟨masked, changed⟩, differs⟩

theorem PortState.enter_disabled {ps : PortState} {e : Event} (off : ps.enables.getLsbD e.code = false) :
    ps.enter e = ps := (ps.enter_spec e).2.2 off

/-! ### The status vector (10.5) -/

theorem statusVector_setService (s : State) (p : Port) (v : Service) : statusVector (s.setService p v) = statusVector s :=
  statusVector_setPort _ _ _

/-- The status vector shows of a link nothing but its fault flag. -/
theorem statusVector_setLink (s : State) (c : Chain) {l l' : Link} (h : l.fault = l'.fault) :
    statusVector (s.setLink c l) = statusVector (s.setLink c l') := by
  have item (k : Chain) : faultItem (put s.links c l)[k] = faultItem (put s.links c l')[k] := by
    by_cases same : k = c
    · rw [same, put_here, put_here, faultItem, faultItem, h]
    · rw [put_there _ same, put_there _ same]
  refine congr_arg₂ List.cons rfl (congr_arg₂ List.cons rfl (congr_arg₂ List.cons rfl (congr_arg₂ List.cons rfl
    (congr_arg₂ List.cons rfl (congr_arg₂ List.cons rfl (congr_arg₂ List.cons rfl (congr_arg₂ List.cons (item 0)
    (congr_arg₂ List.cons (item 1) (congr_arg₂ List.cons (item 2) (congr_arg₂ List.cons (item 3) rfl))))))))))

theorem statusVector_setLink_same (s : State) (c : Chain) {l : Link} (h : l.fault = s.links[c].fault) :
    statusVector (s.setLink c l) = statusVector s := by
  refine (statusVector_setLink s c h).trans ?_
  exact congrArg (fun links => statusVector { s with links := links }) (put_same s.links c)

theorem State.setPort_answered (s : State) (p : Port) (x : PortState) (code : Byte) (payload : List Byte) (r : Reply) :
    (s.setPort p x).answered p code payload r =
      s.setPort p { x with service := .serving code payload (.replied r) } := by
  cases p <;> rfl

/-! ### Posted watches (R181) -/

theorem foldl_unless {α β : Type} {f : α → β → α} {p : β → Bool} (l : List β) (a : α) (h : ∀ x ∈ l, p x = false) :
    l.foldl (fun acc x => if p x then f acc x else acc) a = a := by
  induction l with
  | nil => rfl
  | cons x xs ih =>
    rw [List.foldl_cons, h x List.mem_cons_self, if_neg Bool.false_ne_true]
    exact ih fun y member => h y (List.mem_cons_of_mem _ member)

theorem Watch.differing_eq_zero {w : Watch} {v : List Byte}
    (equal : ∀ i, i < 11 → w.mask.getLsbD i = true → w.values[i]? = v[i]?) : w.differing v = 0 := by
  refine foldl_unless (f := fun acc i => acc ||| (1#16 <<< i)) _ _ fun i member => ?_
  by_contra fires
  rw [Bool.not_eq_false, Bool.and_eq_true, bne_iff_ne] at fires
  exact fires.2 (equal i (List.mem_range.mp member) fires.1)

theorem Watch.differing_ne_zero {w : Watch} {v : List Byte} {i : Nat} (low : i < 11) (masked : w.mask.getLsbD i = true)
    (differs : w.values[i]? ≠ v[i]?) : w.differing v ≠ 0 := by
  intro none_
  have bit := w.differing_getLsbD v i low
  rw [none_, masked, decide_eq_true differs] at bit
  exact absurd bit (by simp)

theorem State.fireWatch_setService (s : State) (c : Ctrl) (v : Service) (items : BitVec 16) :
    (s.setService c.port v).fireWatch c items = (s.fireWatch c items).setService c.port v := by
  unfold State.fireWatch
  rw [statusVector_setService, ← State.raise_setService]
  cases c <;> rfl

/-! ### The enables (R179) -/

theorem newEnables_getLsbD (old : BitVec 35) (mask : BitVec 18) (n : Nat) :
    (newEnables old mask).getLsbD n = if 1 ≤ n ∧ n < 19 then mask.getLsbD (n - 1) else old.getLsbD n := by
  have field : (0x7FFFE#35) = ((BitVec.allOnes 18).setWidth 35 <<< 1) := by decide
  unfold newEnables
  rw [field]
  simp only [BitVec.getLsbD_or, BitVec.getLsbD_and, BitVec.getLsbD_not, BitVec.getLsbD_shiftLeft, BitVec.getLsbD_setWidth,
    BitVec.getLsbD_allOnes]
  by_cases low : n < 35
  · by_cases named : 1 ≤ n ∧ n < 19
    · have above : n ≠ 0 := by omega
      have below : n - 1 < 18 := by omega
      have within : n - 1 < 35 := by omega
      simp [low, named, below, above, within]
    · have outside : n = 0 ∨ ¬ n - 1 < 18 := by omega
      obtain rfl | above := outside
      · simp
      · simp [low, named, above, BitVec.getLsbD_of_ge mask (n - 1) (by omega)]
  · have named : ¬ (1 ≤ n ∧ n < 19) := by omega
    simp [low, named, BitVec.getLsbD_of_ge old n (by omega)]

theorem setEnablesServed_eq (c : Ctrl) (mask : BitVec 18) (s : State) (v : Service) :
    setEnablesServed c mask (s.setService c.port v) =
      ((s.setPort c.port { s.port c.port with
        enables := newEnables (s.port c.port).enables mask
        events := (s.port c.port).events.filter fun e => (newEnables (s.port c.port).enables mask).getLsbD e.code
        attention := !((s.port c.port).events.filter fun e =>
          (newEnables (s.port c.port).enables mask).getLsbD e.code).isEmpty }).setService c.port v, some ⟨.done, []⟩) := by
  cases c <;> rfl

/-! ### READ EVENT (R178) -/

theorem readEventServed_cons {s : State} {p : Port} {e : Event} {rest : List Event} (events : (s.port p).events = e :: rest)
    (v : Service) : readEventServed p (s.setService p v) =
      ((s.setPort p { s.port p with events := rest, attention := !rest.isEmpty }).setService p v,
        some ⟨.done, [byte e.code, byte rest.length] ++ e.detail⟩) := by
  unfold readEventServed
  rw [State.events_setService, events]
  cases p <;> rfl

/-- In a set in ascending code the entry of lowest code stands first, and is the only one of its kind. -/
theorem ascending_lowest {events : List Event} (ascending : (events.map Event.code).Pairwise (· < ·)) {e : Event}
    (member : e ∈ events) (lowest : ∀ x ∈ events, e.code ≤ x.code) :
    ∃ rest, events = e :: rest ∧ rest = events.filter fun x => decide (x.code ≠ e.code) := by
  cases events with
  | nil => exact absurd member List.not_mem_nil
  | cons x rest =>
    obtain ⟨above, -⟩ := List.pairwise_cons.mp ascending
    have first : e = x := by
      obtain same | later := List.mem_cons.mp member
      · exact same
      · have above_e := above e.code (List.mem_map_of_mem later)
        have below_x := lowest x List.mem_cons_self
        omega
    subst first
    refine ⟨rest, rfl, ?_⟩
    rw [List.filter_cons_of_neg (by simp)]
    refine (List.filter_eq_self.mpr fun x later => ?_).symm
    have := above x.code (List.mem_map_of_mem later)
    exact decide_eq_true (by omega)

/-! ### Changes that are offered (log 34) -/

theorem State.grant_setService (s : State) (c : Ctrl) (p : Port) (v : Service) :
    (s.setService p v).grant c = (s.grant c).setService p v := by
  rw [State.grant, State.noted_of_setService, State.grant, ← State.noted_setService, State.setService_arbiter,
    State.setService_settings]
  refine congrArg (State.noted s) ?_
  cases p <;> rfl

theorem requestServed_alone {s : State} {c : Ctrl} (free : s.arbiter.holder = none) (alone : s.claims c.other = false)
    (v : Service) : requestServed c (s.setService c.port v) = ((s.grant c).setService c.port v, some ⟨.done, []⟩) := by
  rw [requestServed_free (by rw [State.setService_arbiter]; exact free), claimFromFree,
    State.claims_setService s (Ctrl.other_port_ne c), alone, if_neg Bool.false_ne_true, done, State.grant_setService]

/-- The third absence in a row is offered as the change of the fault flag alone. -/
theorem State.updateModule_third_ports {s : State} {c : Chain} {i : Fin 12} (two : s.links[c].modules[i].absentRun = 2) :
    (s.updateModule c (i.val + 1) .absent).ports =
      ((s.noted (s.setLink c { s.links[c] with fault := true })).raiseRouted (.chainFault c (i.val + 1))).ports := by
  rw [State.updateModule_third two]
  refine State.raiseRouted_ports ?_ ?_ ?_ _
  · refine State.noted_ports_congr (statusVector_setLink_same s c rfl) ?_ rfl
    rw [State.link_setLink]
    refine Eq.trans ?_ (statusVector_setLink s c (l := { s.links[c].updated i .absent with fault := true }) rfl)
    exact congrArg (fun links => statusVector { s with links := links }) (put_put _ _ _ _)
  · rw [State.setFault_setLink, State.noted_settings]
    rfl
  · rw [State.setFault_setLink, State.noted_arbiter]
    rfl

end Sys2Proof.Machine
end

section
open Sys2Proof Sys2Proof.Machine

/-- Settles O60: routing and watches port by port, the five kinds of change, and the three commands. -/
theorem eventsAreReadEnabledAndWatched : Obligations.EventsAreReadEnabledAndWatched := by
  refine ⟨fun s => ?_, fun r kind m l fault k row p i j cls => rfl, ?_, ?_, ?_, ?_, ?_, ?_, ?_, ?_, ?_, ?_⟩
  · refine congr_arg₂ List.cons ?_ (congr_arg₂ List.cons ?_ (congr_arg₂ List.cons ?_ rfl))
    · unfold authorityItem
      cases s.arbiter.holder with
      | none => rfl
      | some c => cases c <;> rfl
    · unfold timeItem
      cases s.time.state <;> rfl
    · exact refItem_number s.time
  · rintro e r s t route rfl
    obtain ⟨cue, control⟩ := State.port_raiseRouted route
    refine ⟨State.raiseRouted_spec s e, cue, fun q => ⟨fun quiet => ?_, fun reached on => ?_⟩⟩
    · obtain none_ | elsewhere | off := quiet
      · exact (control q).2 (.inl none_)
      · exact (control q).2 (.inr elsewhere)
      · by_cases reached : r = .both ∨ (r = .holder ∧ (s.arbiter.holder = none ∨ s.arbiter.holder = some q))
        · rw [(control q).1 reached, PortState.enter_disabled off]
        · exact (control q).2 (Route.unreached reached)
    · rw [(control q).1 reached, PortState.enter_enabled _ _ on]
      exact ⟨rfl, mem_insertEvent _ _, fun x other => mem_insertEvent_iff other _⟩
  · rintro old new t rfl
    obtain ⟨cue, control⟩ := State.noted_ports old new
    refine ⟨State.noted_spec old new, cue, fun c => ⟨fun unwatched => ?_, fun w kept => ⟨fun still => ?_, ?_⟩⟩⟩
    · rw [control, PortState.offered, unwatched]
    · rw [control, PortState.offered_kept kept still]
    · intro i low masked changed differs
      rw [control, PortState.offered_fires kept low masked changed differs]
      refine ⟨fun off => PortState.enter_disabled off, fun on => ⟨w.differing (statusVector new), ?_⟩⟩
      rw [PortState.enter_enabled _ _ (by exact on)]
      exact ⟨rfl, mem_insertEvent _ _, fun x other => mem_insertEvent_iff other _, w.differing_getLsbD _⟩
  · intro c s commanded free alone
    show serve c.port codeRequestAuthority _ s = _
    rw [serve_withoutPayload commanded, requestServed_alone free alone, Served.finish, State.answer_setService_taken]
    rfl
  · intro h s released due holding reached
    refine ⟨_, exec_secondCompletion released due, ?_⟩
    obtain ⟨n, q, a, completed, next, -⟩ := s.time.completed_spec
    have second : s.time.completed.second = n := by rw [completed]
    rw [← next] at reached
    rw [completeSecond_holding holding, second, if_pos reached]
    refine ⟨?_, ?_⟩
    · rw [State.setTimeState_spec]
    · rw [completed]
      exact State.noted_ports_congr rfl rfl rfl
  · intro ticks s released locked interval long
    rw [exec_pulseIntervalExpiry released, if_pos ⟨locked, by rw [interval]; exact decide_eq_true long⟩]
    rfl
  · rintro c payload l r s commanded holds parsed_ rfl live idle
    refine serve_authorised_answers commanded holds parsed_ ?_
    rw [State.turnOff_setService, State.turnOff_idle live idle]
    rfl
  · rintro c k f i s operates waits rfl more two
    refine ⟨_, by show execAnswerWindowExpiry c s = _; rw [execAnswerWindowExpiry, whenOperating_operating operates, waits],
      (s.closeWindow_absent c i).1.trans (State.updateModule_third_ports two)⟩
  · intro p s commanded
    have read {e : Event} {rest : List Event} (events : (s.port p).events = e :: rest) : exec (.readEvent p) s =
        .next ((s.setPort p { s.port p with events := rest, attention := !rest.isEmpty }).answered
          p codeReadEvent [] ⟨.done, [byte e.code, byte rest.length] ++ e.detail⟩) := by
      show serve p codeReadEvent _ s = _
      rw [serve_withoutPayload commanded, readEventServed_cons events, Served.finish, State.answer_setService_taken]
    refine ⟨fun none_ => ?_, fun e rest => read, fun ascending e member lowest => ?_⟩
    · show serve p codeReadEvent _ s = _
      rw [serve_withoutPayload commanded, readEventServed, State.events_setService, none_]
      exact congrArg Host.Outcome.next (State.answer_setService_taken _ _ _ _ _)
    · obtain ⟨rest, events, filtered⟩ := ascending_lowest (ascending p) member lowest
      exact ⟨rest, events, filtered, by rw [events, List.length_cons], read events⟩
  · intro c payload mask s commanded parsed_
    refine ⟨newEnables (s.port c.port).enables mask, _, serve_answers commanded (by
      rw [parsed, parsed_]
      exact setEnablesServed_eq c mask s _), fun n low => ?_, fun n outside => ?_, rfl⟩
    · rw [newEnables_getLsbD, if_pos ⟨by omega, by omega⟩, Nat.add_sub_cancel]
    · rw [newEnables_getLsbD, if_neg (by omega)]
  · intro c payload w s commanded parsed_
    have served {t : State} (h : postWatchServed c w (s.setService c.port (.serving codePostWatch payload .taken)) =
        (t.setService c.port (.serving codePostWatch payload .taken), some ⟨.done, []⟩)) :
        exec (.postWatch c) s = .next (t.answered c.port codePostWatch payload ⟨.done, []⟩) :=
      serve_answers commanded (by rw [parsed, parsed_]; exact h)
    refine ⟨fun empty => served ?_, fun masks equal => served ?_, fun ⟨i, low, masked, differs⟩ => ?_⟩
    · refine (if_pos empty).trans ?_
      cases c <;> rfl
    · refine (if_neg masks).trans ((if_pos ?_).trans ?_)
      · rw [statusVector_setService]
        exact Watch.differing_eq_zero equal
      · cases c <;> rfl
    · have masks : w.mask ≠ 0 := by
        intro zero
        rw [zero] at masked
        exact absurd masked (by simp)
      refine ⟨(s.fireWatch c (w.differing (statusVector s))).answered c.port codePostWatch payload ⟨.done, []⟩,
        w.differing (statusVector s), served ?_, ?_, ?_, State.answered_service _ _ _ _ _, fun on => ?_,
        w.differing_getLsbD _⟩
      · refine (if_neg masks).trans ((if_neg ?_).trans ?_)
        · rw [statusVector_setService]
          exact Watch.differing_ne_zero low masked differs
        · rw [statusVector_setService, State.fireWatch_setService, done]
      · rw [State.fireWatch_spec, State.setPort_answered, State.port_setPort]
        exact PortState.enter_watch _ _
      · rw [State.fireWatch_spec, State.setPort_answered, State.port_setPort]
      · rw [State.events_answered, State.fireWatch_spec, State.port_setPort]
        exact (PortState.enter_spec _ _).1 on

end

section
/-! The notices (6.5): the notice sequence's rotation, and the commands that set and clear a notice. -/

namespace Sys2Proof.Machine

/-! ### The item after an item (R119) -/

theorem itemAfter_append {before after : List NoticeItem} {x : NoticeItem} (h : x ∉ before) (first : NoticeItem) :
    itemAfter (before ++ x :: after) x first = after.headD first := by
  have rest : (before ++ x :: after).dropWhile (· != x) = x :: after := by
    have passed : ∀ y ∈ before, (y != x) = true := fun y hy => bne_iff_ne.mpr fun e => h (e ▸ hy)
    rw [List.dropWhile_append_of_pos passed]
    exact List.dropWhile_cons_of_neg (by simp)
  rw [itemAfter, rest]
  rfl

theorem itemAfter_mem {seq : List NoticeItem} {first : NoticeItem} (h : first ∈ seq) (x : NoticeItem) :
    itemAfter seq x first ∈ seq := by
  unfold itemAfter
  cases behind : (seq.dropWhile (· != x)).drop 1 with
  | nil => exact h
  | cons next after =>
    have mem : next ∈ (seq.dropWhile (· != x)).drop 1 := behind ▸ List.mem_cons_self
    exact (List.dropWhile_sublist _).mem (List.mem_of_mem_drop mem)

/-! ### A part timer's expiry (R119) -/

theorem movedCursor_empty {s : State} {v : ChainView} (h : noticeSequence s v.plan = []) :
    movedCursor s v = v.withoutCursor := by
  rw [movedCursor, h]

/-- An absent cursor, and one whose item has left the sequence, goes to the first item. -/
theorem movedCursor_first {s : State} {v : ChainView} {first : NoticeItem} {rest : List NoticeItem}
    (h : noticeSequence s v.plan = first :: rest) (away : ∀ cur, v.cursor = some cur → cur.item ∉ first :: rest) :
    movedCursor s v = v.cursorAt (partPeriod s) first 0 := by
  rw [movedCursor, h]
  cases at_ : v.cursor with
  | none => rfl
  | some cur => exact if_neg (away cur at_)

theorem movedCursor_nextPart {s : State} {v : ChainView} {cur : Cursor} (at_ : v.cursor = some cur)
    (mem : cur.item ∈ noticeSequence s v.plan)
    (more : cur.part + 1 < partCount v.plan.width (noticeText s cur.item)) :
    movedCursor s v = v.cursorAt (partPeriod s) cur.item (cur.part + 1) := by
  unfold movedCursor
  cases seq : noticeSequence s v.plan with
  | nil => exact absurd (seq ▸ mem) List.not_mem_nil
  | cons first rest =>
    rw [at_]
    exact (if_pos (seq ▸ mem)).trans (if_pos more)

theorem movedCursor_nextItem {s : State} {v : ChainView} {cur : Cursor} {first : NoticeItem} {rest : List NoticeItem}
    (at_ : v.cursor = some cur) (seq : noticeSequence s v.plan = first :: rest) (mem : cur.item ∈ first :: rest)
    (last : partCount v.plan.width (noticeText s cur.item) ≤ cur.part + 1) :
    movedCursor s v = v.cursorAt (partPeriod s) (itemAfter (first :: rest) cur.item first) 0 := by
  rw [movedCursor, seq, at_]
  exact (if_pos mem).trans (if_neg (Nat.not_lt.mpr last))

/-- Over a sequence that is not empty the timer restarts, wherever the cursor goes. -/
theorem movedCursor_restarts {s : State} {v : ChainView} (h : noticeSequence s v.plan ≠ []) :
    ∃ item part, movedCursor s v = v.cursorAt (partPeriod s) item part := by
  cases seq : noticeSequence s v.plan with
  | nil => exact absurd seq h
  | cons first rest =>
    by_cases away : ∀ cur, v.cursor = some cur → cur.item ∉ first :: rest
    · exact ⟨_, _, movedCursor_first seq away⟩
    · obtain ⟨cur, at_, mem⟩ : ∃ cur, v.cursor = some cur ∧ cur.item ∈ first :: rest := by
        simpa only [not_forall, not_not, exists_prop] using away
      by_cases more : cur.part + 1 < partCount v.plan.width (noticeText s cur.item)
      · exact ⟨_, _, movedCursor_nextPart at_ (seq ▸ mem) more⟩
      · exact ⟨_, _, movedCursor_nextItem at_ seq mem (Nat.not_lt.mp more)⟩

/-! ### SET NOTICE and CLEAR NOTICE (R113, R114) -/

/-- A cursor elsewhere stands (R113). -/
theorem ChainView.noticeSet_other {v : ChainView} {p : Fin 8} (h : ∀ part, v.cursor ≠ some ⟨.position p, part⟩)
    (period : Timer) : v.noticeSet period p = v := by
  unfold ChainView.noticeSet
  split
  · next cur at_ =>
    have away : cur.item ≠ .position p := fun same => h cur.part (at_.trans (same ▸ rfl))
    exact if_neg away
  · rfl

theorem ChainView.noticeSet_same {v : ChainView} {p : Fin 8} {part : Nat}
    (h : v.cursor = some ⟨.position p, part⟩) (period : Timer) :
    v.noticeSet period p = { v with
      cursor := some ⟨.position p, 0⟩, partTimer := period
      partOwed := v.partOwed || decide (v.partTimer = .running 0) } := by
  rw [ChainView.noticeSet, h]
  exact if_pos rfl

/-- The state with a notice in its position, and every cursor on it set back (R113). -/
def State.noticePlaced (s : State) (p : Fin 8) (n : Notice) : State :=
  { s with composer := { s.composer with
    notices := put s.composer.notices p (some n)
    views := mapAll (ChainView.noticeSet (partPeriod s) p) s.composer.views } }

theorem exec_setNotice {s : State} {c : Ctrl} {payload : List Byte} {p : Fin 8} {n : Notice}
    (h : s.commanded c.port codeSetNotice payload) (holds : s.arbiter.holder = some c)
    (reads : parseNotice payload = some (p, n)) :
    exec (.setNotice c) s = .next ((s.noticePlaced p n).answered c.port codeSetNotice payload ⟨.done, []⟩) :=
  serve_authorised_answers h holds reads (by cases c <;> rfl)

theorem exec_clearNotice {s : State} {c : Ctrl} {payload : List Byte} {p : Fin 8}
    (h : s.commanded c.port codeClearNotice payload) (holds : s.arbiter.holder = some c)
    (reads : parsePosition payload = some p) :
    exec (.clearNotice c) s = .next (({ s with composer := { s.composer with
      notices := put s.composer.notices p none } } : State).answered c.port codeClearNotice payload ⟨.done, []⟩) :=
  serve_authorised_answers h holds reads (by cases c <;> rfl)

theorem exec_partTimerExpiry {s : State} {k : Chain} (h : s.operating)
    (due : s.composer.views[k].partTimer = .running 0 ∨ s.composer.views[k].partOwed = true) :
    exec (.partTimerExpiry k) s = .next (s.setView k (movedCursor s s.composer.views[k])) := by
  show execPartTimerExpiry k s = _
  rw [execPartTimerExpiry, whenOperating_operating h]
  exact congrArg Host.Outcome.next (if_pos due)

end Sys2Proof.Machine
end

section
open Sys2Proof Sys2Proof.Machine

/-- Settles O44: the two commands' next states are written out, and the expiry goes by the cases of `movedCursor`. -/
theorem noticesAreSetClearedAndRotated : Obligations.NoticesAreSetClearedAndRotated := by
  refine ⟨fun c payload p n s commanded holds reads => ?_,
    fun c payload p s commanded holds reads => exec_clearNotice commanded holds reads, fun k s operates due => ?_⟩
  · refine ⟨s.noticePlaced p n, exec_setNotice commanded holds reads, rfl, fun k => ?_⟩
    have view : (s.noticePlaced p n).composer.views[k] = s.composer.views[k].noticeSet (partPeriod s) p :=
      mapAll_get _ _ k
    rw [view]
    exact ⟨fun other => ChainView.noticeSet_other other _, fun part at_ => ChainView.noticeSet_same at_ _⟩
  · refine ⟨_, exec_partTimerExpiry operates due, movedCursor_empty, fun first rest seq => ⟨?_, fun absent => ?_,
      fun cur at_ => ⟨fun away => ?_, fun mem => ⟨fun more => ?_, fun last => ?_⟩⟩⟩⟩
    · obtain ⟨item, part, moved⟩ := movedCursor_restarts (seq ▸ List.cons_ne_nil _ _)
      exact ⟨⟨item, part⟩, moved⟩
    · rw [movedCursor_first seq fun cur at_ => absurd (absent.symm.trans at_) nofun]
      rfl
    · rw [movedCursor_first seq fun cur' at' => Option.some.inj (at_.symm.trans at') ▸ away]
      rfl
    · rw [movedCursor_nextPart at_ (seq ▸ mem) more]
      rfl
    · rw [movedCursor_nextItem at_ seq mem last]
      refine ⟨_, rfl, itemAfter_mem List.mem_cons_self _, fun before after split away => ?_⟩
      rw [split, itemAfter_append away]

end

section
/-! Cycle starts at the composer (6.3): the page list, and the page index and page timer brought up to date. -/

namespace Sys2Proof.Machine

/-! ### The page index (R104) -/

theorem ChainView.updatePage_single {v : ChainView}
    (h : v.plan.roles.count .list - v.plan.pinned = 0 ∨ v.pages.length ≤ v.plan.roles.count .list) :
    v.updatePage = { v with page := 0, pageTimer := .stopped } :=
  if_pos h

/-- More entries than LIST rows, and a LIST row that is not pinned: the page timer says what becomes of the index. -/
theorem ChainView.updatePage_paged {v : ChainView} (unpinned : 0 < v.plan.roles.count .list - v.plan.pinned)
    (more : v.plan.roles.count .list < v.pages.length) :
    (v.pageTimer = .stopped → v.updatePage = { v with page := 0, pageTimer := pagePeriod v.plan }) ∧
    (v.pageTimer = .runOut → v.updatePage = { v with
      page := if v.pages.length <
          v.plan.pinned + (v.page + 1) * (v.plan.roles.count .list - v.plan.pinned) + 1 then 0 else v.page + 1
      pageTimer := pagePeriod v.plan }) ∧
    (∀ left, v.pageTimer = .running left → v.updatePage =
      if v.pages.length < v.plan.pinned + v.page * (v.plan.roles.count .list - v.plan.pinned) + 1 then
        { v with page := 0, pageTimer := pagePeriod v.plan } else v) := by
  have paged : ¬ (v.plan.roles.count .list - v.plan.pinned = 0 ∨ v.pages.length ≤ v.plan.roles.count .list) := by omega
  unfold ChainView.updatePage
  dsimp only
  rw [if_neg paged]
  refine ⟨fun timer => ?_, fun timer => ?_, fun left timer => ?_⟩ <;> rw [timer]

/-! ### The page list (R103) -/

theorem snapshot_slots (t : Table) (plan : ChainPlan) :
    (snapshot t plan).map Prod.fst = t.order.filter fun i => (t.slots[i]).any (eligible plan) := by
  rw [snapshot, List.map_filterMap, ← List.filterMap_eq_filter]
  refine List.filterMap_congr fun i _ => ?_
  show _ = if (t.slots[i]).any (eligible plan) = true then some i else none
  cases t.slots[i] with
  | none => rfl
  | some r => cases h : eligible plan r <;> simp [h, Option.filter]

theorem mem_snapshot {t : Table} {plan : ChainPlan} {e : Slot × List Byte} (h : e ∈ snapshot t plan) :
    ∃ r, t.slots[e.1] = some r ∧ r.code = e.2 := by
  obtain ⟨i, -, entry⟩ := List.mem_filterMap.mp h
  obtain ⟨r, found, rfl⟩ := Option.map_eq_some_iff.mp entry
  exact ⟨r, (Option.filter_eq_some_iff.mp found).1, rfl⟩

/-! ### The view after a cycle start (R103) -/

theorem repages_iff (old new : ChainPlan) : repages old new = true ↔
    old.roles.count .list ≠ new.roles.count .list ∨ old.pinned ≠ new.pinned ∨ old.sectorMask ≠ new.sectorMask ∨
      old.platformFilter ≠ new.platformFilter := by
  simp [repages, or_assoc]

/-- The view of a chain as a cycle start finds its page: the new plan and page list, and paging restarted where the
plans differ in what restarts it. -/
def ChainView.renewed (v : ChainView) (plan : ChainPlan) (pages : List (Slot × List Byte)) : ChainView :=
  { (if repages v.plan plan then { v with page := 0, pageTimer := .stopped } else v) with
    plan := plan, nextRow := 1, running := true, pages := pages }

theorem ChainView.renewed_restarted {v : ChainView} {plan : ChainPlan} (h : repages v.plan plan = true)
    (pages : List (Slot × List Byte)) : v.renewed plan pages =
      { v with plan := plan, running := true, nextRow := 1, pages := pages, page := 0, pageTimer := .stopped } := by
  rw [ChainView.renewed, h]
  rfl

theorem ChainView.renewed_continued {v : ChainView} {plan : ChainPlan} (h : ¬ repages v.plan plan = true)
    (pages : List (Slot × List Byte)) :
    v.renewed plan pages = { v with plan := plan, running := true, nextRow := 1, pages := pages } := by
  rw [ChainView.renewed, if_neg h]

theorem ChainView.renewed_cursor (v : ChainView) (plan : ChainPlan) (pages : List (Slot × List Byte)) :
    (v.renewed plan pages).cursor = v.cursor ∧ (v.renewed plan pages).partTimer = v.partTimer ∧
      (v.renewed plan pages).partOwed = v.partOwed := by
  unfold ChainView.renewed
  split <;> exact ⟨rfl, rfl, rfl⟩

theorem ChainView.startCycle_disabled {plan : ChainPlan} (h : plan.enabled = false) (v : ChainView) (t : Table) :
    v.startCycle plan t = { v.renewed plan [] with
      page := 0, pageTimer := .stopped, partTimer := .stopped, partOwed := false, cursor := none } := by
  simp only [ChainView.startCycle, h]
  rfl

theorem ChainView.startCycle_enabled {plan : ChainPlan} (h : plan.enabled = true) (v : ChainView) (t : Table) :
    v.startCycle plan t =
      if plan.roles.contains .notice then (v.renewed plan (snapshot t plan)).updatePage
      else (v.renewed plan (snapshot t plan)).updatePage.withoutCursor := by
  simp only [ChainView.startCycle, h]
  rfl

/-- What an enabled cycle start takes from the page brought up to date, with and without a NOTICE row. -/
theorem ChainView.startCycle_paged {plan : ChainPlan} (h : plan.enabled = true) (v : ChainView) (t : Table) :
    (v.startCycle plan t).pages = snapshot t plan ∧
    (v.startCycle plan t).page = (v.renewed plan (snapshot t plan)).updatePage.page ∧
    (v.startCycle plan t).pageTimer = (v.renewed plan (snapshot t plan)).updatePage.pageTimer := by
  have pages : (v.renewed plan (snapshot t plan)).updatePage.pages = snapshot t plan := by
    rw [ChainView.updatePage_spec]
    rfl
  rw [startCycle_enabled h]
  split <;> exact ⟨pages, rfl, rfl⟩

theorem ChainView.startCycle_noticed {plan : ChainPlan} (h : plan.enabled = true) (v : ChainView) (t : Table) :
    (.notice ∈ plan.roles → (v.startCycle plan t).cursor = v.cursor ∧ (v.startCycle plan t).partTimer = v.partTimer ∧
      (v.startCycle plan t).partOwed = v.partOwed) ∧
    (.notice ∉ plan.roles → (v.startCycle plan t).cursor = none ∧ (v.startCycle plan t).partTimer = .stopped ∧
      (v.startCycle plan t).partOwed = false) := by
  rw [startCycle_enabled h]
  refine ⟨fun noticed => ?_, fun unnoticed => ?_⟩
  · rw [if_pos (List.contains_iff_mem.mpr noticed), ChainView.updatePage_spec]
    exact v.renewed_cursor plan (snapshot t plan)
  · rw [if_neg (mt List.contains_iff_mem.mp unnoticed)]
    exact ⟨rfl, rfl, rfl⟩

/-! ### The steps -/

theorem exec_cycleStart {s : State} {k : Chain} (h : s.operating) (ended : s.links[k].state = .ended)
    (refresh : s.links[k].refresh = .runOut) : exec (.cycleStart k) s = .next (s.startCycle k) := by
  show execCycleStart k s = _
  rw [execCycleStart, whenOperating_operating h]
  exact congrArg Host.Outcome.next (if_pos ⟨ended, refresh⟩)

theorem exec_pageTimerExpiry {s : State} {k : Chain} (h : s.operating)
    (due : s.composer.views[k].pageTimer = .running 0) :
    exec (.pageTimerExpiry k) s = .next (s.setView k { s.composer.views[k] with pageTimer := .runOut }) := by
  show execPageTimerExpiry k s = _
  rw [execPageTimerExpiry, whenOperating_operating h]
  exact congrArg Host.Outcome.next (if_pos due)

theorem exec_refreshTimerExpiry {s : State} {k : Chain} (h : s.operating) (due : s.links[k].refresh = .running 0) :
    exec (.refreshTimerExpiry k) s = .next (s.setLink k { s.links[k] with refresh := .runOut }) := by
  show execRefreshTimerExpiry k s = _
  rw [execRefreshTimerExpiry, whenOperating_operating h]
  exact congrArg Host.Outcome.next (if_pos due)

end Sys2Proof.Machine
end

section
open Sys2Proof Sys2Proof.Machine

/-- Settles O41: the view after a cycle start is the renewed view with its page brought up to date, by R104's table. -/
theorem cycleStartFixesPlanListAndPage : Obligations.CycleStartFixesPlanListAndPage := by
  refine ⟨fun k plan v s operates ended refresh plan_ v_ => ?_, fun v n m l n_ m_ l_ => ?_,
    fun k s operates due => exec_pageTimerExpiry operates due,
    fun k s operates due => exec_refreshTimerExpiry operates due⟩
  · subst plan_
    subst v_
    have view : (s.startCycle k).composer.views[k] = s.composer.views[k].startCycle s.settings.plans[k] s.table :=
      (s.startCycle_views k k).trans (if_pos rfl)
    obtain ⟨plan, running, nextRow⟩ := s.composer.views[k].startCycle_running s.settings.plans[k] s.table
    refine ⟨s.startCycle k, _, exec_cycleStart operates ended refresh, view.symm, rfl, plan, running, nextRow,
      fun disabled => ?_, fun enabled => ?_⟩
    · rw [ChainView.startCycle_disabled disabled]
      exact ⟨rfl, rfl, rfl, rfl, rfl, rfl⟩
    · obtain ⟨pages, page, timer⟩ := s.composer.views[k].startCycle_paged enabled s.table
      obtain ⟨noticed, unnoticed⟩ := s.composer.views[k].startCycle_noticed enabled s.table
      refine ⟨?_, fun e mem => mem_snapshot (pages ▸ mem), fun u u_ => ⟨fun differ => ?_, fun rows pinned mask filter => ?_⟩,
        noticed, unnoticed⟩
      · rw [pages]
        exact snapshot_slots _ _
      · rw [page, timer, ChainView.renewed_restarted ((repages_iff _ _).mpr differ), u_, pages]
        exact ⟨rfl, rfl⟩
      · have same : ¬ repages s.composer.views[k].plan s.settings.plans[k] = true := fun differ =>
          ((repages_iff _ _).mp differ).elim (· rows) (·.elim (· pinned) (·.elim (· mask) (· filter)))
        rw [page, timer, ChainView.renewed_continued same, u_, pages]
        exact ⟨rfl, rfl⟩
  · subst n_ m_ l_
    refine ⟨ChainView.updatePage_single, fun unpinned more => ?_⟩
    obtain ⟨stopped, runOut, running⟩ := ChainView.updatePage_paged unpinned more
    refine ⟨stopped, fun timer next => ?_, fun timer back => ?_, fun left timer back => ?_, fun left timer keeps => ?_⟩
    · rw [runOut timer, if_neg (Nat.not_lt.mpr next)]
      rfl
    · rw [runOut timer, if_pos back]
      rfl
    · rw [running left timer, if_pos back]
      rfl
    · rw [running left timer, if_neg (Nat.not_lt.mpr keeps)]

end

section
/-! The composition engine (6.4) and the rows it composes: CLOCK, BLANK and NOTICE rows, and the notice sequence. -/

namespace Sys2Proof.Machine

/-! ### The chain served next (R106) -/

theorem chainsAfter_eq (c : Chain) : chainsAfter c = (List.finRange 4).map fun e => c + e + 1 := by
  revert c
  decide

theorem chainsAfter_find {c d : Chain} {wanting : Chain → Bool} (h : wanting (c + d + 1) = true)
    (before : ∀ e, e < d → wanting (c + e + 1) = false) :
    (chainsAfter c).find? wanting = some (c + d + 1) := by
  rw [chainsAfter_eq, List.find?_eq_some_iff_getElem]
  refine ⟨h, d.val, by simp, by simp, fun j hj => ?_⟩
  have waits := before ⟨j, hj.trans d.isLt⟩ hj
  simpa using waits

theorem State.wanting_iff (s : State) (k : Chain) : s.wanting k = true ↔ s.composer.views[k].running = true ∧
    s.composer.views[k].nextRow ≤ s.composer.views[k].plan.roles.length ∧ s.links[k].feed.length < 2 := by
  simp [State.wanting, and_assoc]

theorem beginComposition_eq (k : Chain) (s : State) : beginComposition k s = { s with
    composer := { s.composer with
      engine := some ⟨k, s.composer.views[k].nextRow,
        (composeRow s s.composer.views[k] s.composer.views[k].nextRow).2, false⟩
      lastServed := k
      views := put s.composer.views k { (composeRow s s.composer.views[k] s.composer.views[k].nextRow).1 with
        nextRow := s.composer.views[k].nextRow + 1 } }
    links := put s.links k { s.links[k] with
      feed := s.links[k].feed ++ [.reserved s.composer.views[k].nextRow] } } := rfl

theorem exec_compositionStart {s : State} {k : Chain} (h : s.operating) (idle : s.composer.engine = none)
    (found : (chainsAfter s.composer.lastServed).find? s.wanting = some k) :
    exec .compositionStart s = .next (beginComposition k s) := by
  show execCompositionStart s = _
  rw [execCompositionStart, whenOperating_operating h, idle, found]

/-! ### The end of a composition (R106) -/

theorem deliverImage_eq (k : Nat) (image : LineImage) (feed : List FeedPlace) :
    deliverImage k image feed = feed.map fun p => if p = .reserved k then .image k image else p := by
  refine List.map_congr_left fun p _ => ?_
  cases p with
  | reserved r => simp only [FeedPlace.reserved.injEq]
  | image r i => rfl

theorem exec_compositionCompletion {s : State} {e : Composition} (h : s.operating) (busy : s.composer.engine = some e) :
    exec .compositionCompletion s = .next { s with
      composer := { s.composer with engine := none }
      links := put s.links e.chain { s.links[e.chain] with
        feed := if e.passed then releasePlace s.links[e.chain].feed
          else deliverImage e.row e.image s.links[e.chain].feed } } := by
  show execCompositionCompletion s = _
  rw [execCompositionCompletion, whenOperating_operating h, busy]
  rfl

/-! ### Rows by their role (R112, R118) -/

/-- A row of an enabled plan is composed by its role. -/
theorem composeRow_enabled {v : ChainView} (h : v.plan.enabled = true) (s : State) (k : Nat) :
    (v.plan.roles.getD (k - 1) .blank = .list →
      composeRow s v k = (v, listRow s v ((v.plan.roles.take k).count .list))) ∧
    (v.plan.roles.getD (k - 1) .blank = .notice → composeRow s v k = noticeRow s v) ∧
    (v.plan.roles.getD (k - 1) .blank = .clock → composeRow s v k = (v, clockImage s v.plan.width)) ∧
    (v.plan.roles.getD (k - 1) .blank = .blank → composeRow s v k = (v, blankImage v.plan.width)) := by
  rw [composeRow, h]
  refine ⟨fun role => ?_, fun role => ?_, fun role => ?_, fun role => ?_⟩ <;> rw [role] <;> rfl

theorem composeRow_disabled {v : ChainView} (h : v.plan.enabled = false) (s : State) (k : Nat) :
    composeRow s v k = (v, blankImage v.plan.width) := by
  rw [composeRow, h]
  rfl

theorem noticeRow_empty {s : State} {v : ChainView} (h : noticeSequence s v.plan = []) :
    noticeRow s v = (v.withoutCursor, blankImage v.plan.width) := by
  rw [noticeRow, h]

/-- Without a cursor on an item of the sequence the row shows the start of its first item, where the cursor then
stands. -/
theorem noticeRow_first {s : State} {v : ChainView} {first : NoticeItem} {rest : List NoticeItem}
    (h : noticeSequence s v.plan = first :: rest) (away : ∀ cur, v.cursor = some cur → cur.item ∉ first :: rest) :
    noticeRow s v =
      (v.cursorAt (partPeriod s) first 0, steadyImage v.plan.width (noticePart v.plan.width 0 (noticeText s first))) := by
  rw [noticeRow, h]
  cases at_ : v.cursor with
  | none => rfl
  | some cur => exact if_neg (away cur at_)

theorem noticeRow_cursor {s : State} {v : ChainView} {first : NoticeItem} {rest : List NoticeItem} {cur : Cursor}
    (h : noticeSequence s v.plan = first :: rest) (at_ : v.cursor = some cur) (mem : cur.item ∈ first :: rest) :
    noticeRow s v = (v, steadyImage v.plan.width (noticePart v.plan.width
      (min cur.part (partCount v.plan.width (noticeText s cur.item) - 1)) (noticeText s cur.item))) := by
  rw [noticeRow, h, at_]
  exact if_pos mem

theorem noticeRow_steady (s : State) (v : ChainView) : (noticeRow s v).2.flash = List.replicate v.plan.width false := by
  fun_cases noticeRow s v <;> rfl

theorem padTo_padTo (n : Nat) (bs : List Byte) : padTo n (padTo n bs) = padTo n bs := by
  have length : (padTo n bs).length = n := padTo_length n bs
  conv_lhs => rw [padTo, length, List.take_of_length_le length.le, Nat.sub_self, List.replicate_zero, List.append_nil]

theorem noticePart_zero (w : Nat) (text : List Byte) : noticePart w 0 text = padTo w text := by
  rw [noticePart, Nat.zero_mul, List.drop_zero]

/-! ### The notice sequence (R116) -/

/-- The positions of one priority, ascending. -/
def Composer.noticesAt (c : Composer) (priority : Nat) : List (Fin 8) :=
  (List.finRange 8).filter fun p => c.notices[p].any fun n => n.priority == priority

/-- The positions of the notice list in the order of the sequence. -/
def Composer.noticePositions (c : Composer) : List (Fin 8) := (List.range 4).flatMap c.noticesAt

theorem Composer.noticeOrder_eq (c : Composer) : c.noticeOrder = c.noticePositions.map NoticeItem.position :=
  List.map_flatMap.symm

theorem Composer.mem_noticesAt {c : Composer} {priority : Nat} {p : Fin 8} :
    p ∈ c.noticesAt priority ↔ ∃ n, c.notices[p] = some n ∧ n.priority = priority := by
  simp [Composer.noticesAt, Option.any_eq_true]

theorem Composer.mem_noticePositions {c : Composer} {p : Fin 8} :
    p ∈ c.noticePositions ↔ ∃ n, c.notices[p] = some n ∧ n.priority ≤ 3 := by
  unfold Composer.noticePositions
  simp only [List.mem_flatMap, List.mem_range, Composer.mem_noticesAt]
  constructor
  · rintro ⟨priority, low, n, found, rfl⟩
    exact ⟨n, found, Nat.le_of_lt_succ low⟩
  · rintro ⟨n, found, low⟩
    exact ⟨n.priority, Nat.lt_succ_of_le low, n, found, rfl⟩

theorem Composer.noticePositions_sorted (c : Composer) : c.noticePositions.Pairwise fun p q =>
    ∀ a b, c.notices[p] = some a → c.notices[q] = some b →
      a.priority < b.priority ∨ a.priority = b.priority ∧ p < q := by
  have priorityOf {p : Fin 8} {priority : Nat} {a : Notice} (mem : p ∈ c.noticesAt priority)
      (found : c.notices[p] = some a) : a.priority = priority := by
    obtain ⟨n, found', priority_⟩ := mem_noticesAt.mp mem
    cases found.symm.trans found'
    exact priority_
  refine List.pairwise_flatMap.mpr ⟨fun priority _ => ?_, ?_⟩
  · have ascending : (c.noticesAt priority).Pairwise (· < ·) := (List.pairwise_lt_finRange 8).filter _
    refine ascending.imp_of_mem fun memp memq less a b founda foundb => .inr ⟨?_, less⟩
    exact (priorityOf memp founda).trans (priorityOf memq foundb).symm
  · refine List.pairwise_lt_range.imp fun less p memp q memq a b founda foundb => .inl ?_
    rwa [priorityOf memp founda, priorityOf memq foundb]

theorem automaticNotices_off {s : State} (h : s.settings.autoDelayNotices = false) (plan : ChainPlan) :
    automaticNotices s plan = [] := by
  rw [automaticNotices, h]
  rfl

theorem automaticNotices_on {s : State} (h : s.settings.autoDelayNotices = true) (plan : ChainPlan) :
    automaticNotices s plan = s.table.order.filterMap fun i =>
      (s.table.slots[i].filter fun r => eligible plan r && noticeable s.settings r).map fun r =>
        NoticeItem.automatic i r.code := by
  rw [automaticNotices, h]
  rfl

theorem noticed_iff (cfg : Settings) (plan : ChainPlan) (r : Record) :
    (eligible plan r && noticeable cfg r) = true ↔ plan.sectorMask.getLsbD r.sector.val = true ∧
      (plan.platformFilter = 0 ∨ r.platform = some plan.platformFilter) ∧
      (r.state = .waiting ∨ r.state = .called) ∧ cfg.delayCueThreshold ≤ r.delay ∧ r.remark ≠ none := by
  simp only [eligible, noticeable, Bool.and_eq_true, Bool.or_eq_true, beq_iff_eq, decide_eq_true_iff, ge_iff_le,
    Option.isSome_iff_ne_none, and_assoc]
  cases r.state <;> simp

theorem civilText_length (dayStart : Nat) (m : Int) : (civilText dayStart m).length = 5 := rfl

/-! ### Notice texts and part counts (R117) -/

theorem noticeText_automatic {s : State} {i : Slot} {r : Record} {x : TextRef} (found : s.table.slots[i] = some r)
    (remark : r.remark = some x) (code : List Byte) : noticeText s (.automatic i code) =
      civilText s.settings.dayStart r.sched ++ [0x20] ++ s.store.shown r.destination ++ [0x20] ++ s.store.shown x := by
  show (match s.table.slots[i] with | some r => automaticText s r | none => []) = _
  rw [found]
  show automaticText s r = _
  rw [automaticText, remark]
  rfl

theorem partCount_nil {w : Nat} (h : 0 < w) : partCount w [] = 1 := by
  have none_ : (0 + w - 1) / w = 0 := Nat.div_eq_of_lt (by omega)
  rw [partCount, List.length_nil, none_]
  rfl

/-- The last part holds the end of the text, and the parts before it do not. -/
theorem partCount_spec {w : Nat} {text : List Byte} (h : 0 < w) (some_ : text ≠ []) :
    (partCount w text - 1) * w < text.length ∧ text.length ≤ partCount w text * w := by
  have length : 0 < text.length := List.length_pos_iff.mpr some_
  have count : partCount w text = (text.length + w - 1) / w :=
    Nat.max_eq_right (Nat.div_pos (by omega) h)
  have below := Nat.div_mul_le_self (text.length + w - 1) w
  have above := Nat.lt_div_mul_add (a := text.length + w - 1) h
  rw [count, Nat.sub_mul, Nat.one_mul]
  omega

end Sys2Proof.Machine
end

section
open Sys2Proof Sys2Proof.Machine

/-- Settles O42: the two steps of the engine, the rows by their role, and the sequence by its two halves. -/
theorem compositionsServeTheWantingChain : Obligations.CompositionsServeTheWantingChain := by
  refine ⟨fun d k s operates idle k_ wants before => ?_, fun s k => s.wanting_iff k, fun s v row enabled role => ?_,
    fun s v row h => ?_, fun s v row i enabled role i_ => ?_, fun s v row enabled role => ?_, fun s plan => ?_,
    fun s => ⟨fun p n found => ?_, fun i r code x found remark => ?_, fun w text wide => ⟨fun empty => ?_,
      partCount_spec wide⟩⟩, fun e s operates busy => ⟨fun stands => ?_, fun passed => ?_⟩⟩
  · subst k_
    have run := exec_compositionStart operates idle (chainsAfter_find wants before)
    rw [beginComposition_eq] at run
    refine ⟨_, _, run, rfl, rfl, ?_, put_here _ _ _, fun j other => put_there _ other _, ?_, rfl, ?_⟩
    · exact congrArg ChainView.nextRow (put_here _ _ _)
    · exact congrArg Link.feed (put_here _ _ _)
    · dsimp only
      rw [put_here]
  · obtain ⟨-, -, clock, -⟩ := composeRow_enabled enabled s row
    rw [clock role]
    refine ⟨fun set => ?_, fun unset => ?_, rfl, rfl⟩
    · rw [clockImage, set]
      rfl
    · rw [clockImage, unset]
      rfl
  · rcases h with disabled | role
    · exact composeRow_disabled disabled s row
    · cases enabled : v.plan.enabled with
      | false => exact composeRow_disabled enabled s row
      | true => exact (composeRow_enabled enabled s row).2.2.2 role
  · obtain ⟨list, -⟩ := composeRow_enabled enabled s row
    rw [list role, i_]
    exact ⟨rfl, fun within => if_pos within, fun beyond => if_neg (Nat.not_le.mpr beyond)⟩
  · obtain ⟨-, notice, -⟩ := composeRow_enabled enabled s row
    rw [notice role]
    refine ⟨noticeRow_steady s v, fun empty => ?_, fun first rest seq => ⟨fun away => ?_, fun cur at_ mem => ?_⟩⟩
    · rw [noticeRow_empty empty]
      exact ⟨rfl, rfl⟩
    · rw [noticeRow_first seq]
      · rw [noticePart_zero]
        exact ⟨rfl, padTo_padTo _ _⟩
      · rintro cur at_
        rcases away with absent | ⟨cur', at', away⟩
        · exact absurd (absent.symm.trans at_) nofun
        · exact Option.some.inj (at'.symm.trans at_) ▸ away
    · rw [noticeRow_cursor seq at_ mem]
      exact ⟨rfl, padTo_padTo _ _⟩
  · refine ⟨s.composer.noticePositions, automaticNotices s plan, ?_, fun p => Composer.mem_noticePositions,
      s.composer.noticePositions_sorted, fun off => automaticNotices_off off plan, fun on => ?_⟩
    · rw [noticeSequence, Composer.noticeOrder_eq]
    · rw [automaticNotices_on on]
      refine List.filterMap_congr fun i _ => ?_
      cases s.table.slots[i] with
      | none => rfl
      | some r =>
        have filtered : ((some r).filter fun r => eligible plan r && noticeable s.settings r).map
            (fun r => NoticeItem.automatic i r.code) =
            if (eligible plan r && noticeable s.settings r) = true then some (.automatic i r.code) else none :=
          apply_ite (Option.map fun r : Record => NoticeItem.automatic i r.code) _ _ _
        exact filtered.trans (if_congr (noticed_iff _ _ _) rfl rfl)
  · show (match s.composer.notices[p] with | some n => s.store.shown n.ref | none => []) = _
    rw [found]
  · have text := noticeText_automatic found remark code
    refine ⟨text, ?_⟩
    rw [text]
    simp only [List.length_append, List.length_singleton, civilText_length]
    omega
  · rw [empty, partCount_nil wide]
  · rw [exec_compositionCompletion operates busy, stands, ← deliverImage_eq]
    rfl
  · rw [exec_compositionCompletion operates busy, passed]
    rfl

end

section
/-! The configuration items (11.1): what each value's bytes are read back as, what a stored item replaces, and the
stored block (11.2). -/

namespace Sys2Proof.Machine

/-! ### Numbers in bytes -/

theorem byte_toNat (n : Nat) : (byte n).toNat = n % 256 := BitVec.toNat_ofNat n 8

theorem byte_toNat_self (b : Byte) : byte b.toNat = b := by simp [byte]

theorem byte_toNat_of_lt {n : Nat} (h : n < 256) : (byte n).toNat = n := by
  rw [byte_toNat, Nat.mod_eq_of_lt h]

theorem be16_toNat {n : Nat} (h : n < 65536) : (byte (n / 256)).toNat * 256 + (byte n).toNat = n := by
  rw [byte_toNat, byte_toNat]
  omega

theorem be16_of_toNat (a b : Byte) : be16 (a.toNat * 256 + b.toNat) = [a, b] := by
  have high : (a.toNat * 256 + b.toNat) / 256 = a.toNat := by have := b.isLt; omega
  have low : byte (a.toNat * 256 + b.toNat) = b := by
    apply BitVec.eq_of_toNat_eq
    rw [byte_toNat]
    have := b.isLt
    omega
  rw [be16, high, low, byte_toNat_self]

/-! ### Values read within their ranges (R186) -/

theorem inRange_iff {lo hi n m : Nat} : inRange lo hi n = some m ↔ n = m ∧ lo ≤ m ∧ m ≤ hi := by
  unfold inRange
  split
  · next within => exact ⟨fun same => by cases same; exact ⟨rfl, within⟩, fun ⟨same, _⟩ => congrArg some same⟩
  · next outside => exact ⟨nofun, fun ⟨same, within⟩ => absurd (same ▸ within) outside⟩

theorem oneByte_iff {lo hi : Nat} (h : hi < 256) {v : List Byte} {n : Nat} :
    oneByte lo hi v = some n ↔ v = [byte n] ∧ lo ≤ n ∧ n ≤ hi := by
  constructor
  · intro read
    unfold oneByte at read
    split at read
    · obtain ⟨rfl, within⟩ := inRange_iff.mp read
      exact ⟨by rw [byte_toNat_self], within⟩
    · exact absurd read nofun
  · rintro ⟨rfl, within⟩
    exact inRange_iff.mpr ⟨byte_toNat_of_lt (by omega), within⟩

theorem twoBytes_iff {lo hi : Nat} (h : hi < 65536) {v : List Byte} {n : Nat} :
    twoBytes lo hi v = some n ↔ v = be16 n ∧ lo ≤ n ∧ n ≤ hi := by
  constructor
  · intro read
    unfold twoBytes at read
    split at read
    · obtain ⟨rfl, within⟩ := inRange_iff.mp read
      exact ⟨(be16_of_toNat _ _).symm, within⟩
    · exact absurd read nofun
  · rintro ⟨rfl, within⟩
    exact inRange_iff.mpr ⟨be16_toNat (by omega), within⟩

theorem flag_iff {n : Nat} (h : n ≤ 1) (b : Bool) : (n == 1) = b ↔ byte n = flag b := by
  interval_cases n <;> cases b <;> decide

theorem flag_read {b : Byte} (h : b.toNat ≤ 1) : flag (b.toNat == 1) = b := by
  rw [← (flag_iff h _).mp rfl, byte_toNat_self]

theorem flag_toNat (b : Bool) : (flag b).toNat ≤ 1 ∧ ((flag b).toNat == 1) = b := by
  cases b <;> decide

theorem yesNo_iff {v : List Byte} {b : Bool} : yesNo v = some b ↔ v = [flag b] ∧ True := by
  rw [yesNo, Option.map_eq_some_iff, and_true]
  constructor
  · rintro ⟨n, read, same⟩
    obtain ⟨rfl, -, small⟩ := (oneByte_iff (by decide)).mp read
    rw [(flag_iff small b).mp same]
  · rintro rfl
    cases b with
    | false => exact ⟨0, rfl, rfl⟩
    | true => exact ⟨1, rfl, rfl⟩

theorem routeOf_iff {v : List Byte} {r : Route} : routeOf v = some r ↔ v = [routeByte r] ∧ True := by
  rw [routeOf, Option.map_eq_some_iff, and_true]
  constructor
  · rintro ⟨n, read, rfl⟩
    obtain ⟨rfl, -, small⟩ := (oneByte_iff (by decide)).mp read
    interval_cases n <;> rfl
  · rintro rfl
    cases r with
    | holder => exact ⟨0, rfl, rfl⟩
    | both => exact ⟨1, rfl, rfl⟩
    | none => exact ⟨2, rfl, rfl⟩

/-! ### Values of several bytes, taken apart -/

theorem exists_cons_of_length {α : Type} {n : Nat} {v : List α} (h : v.length = n + 1) :
    ∃ a w, v = a :: w ∧ w.length = n := by
  cases v with
  | nil => exact absurd h nofun
  | cons a w => exact ⟨a, w, rfl, Nat.succ.inj h⟩

theorem exists_five_of_length {α : Type} {n : Nat} {v : List α} (h₀ : v.length = n + 5) :
    ∃ a b c d e w, v = a :: b :: c :: d :: e :: w ∧ w.length = n := by
  obtain ⟨a, fromB, rfl, h₁⟩ := exists_cons_of_length h₀
  obtain ⟨b, fromC, rfl, h₂⟩ := exists_cons_of_length h₁
  obtain ⟨c, fromD, rfl, h₃⟩ := exists_cons_of_length h₂
  obtain ⟨d, fromE, rfl, h₄⟩ := exists_cons_of_length h₃
  obtain ⟨e, w, rfl, h₅⟩ := exists_cons_of_length h₄
  exact ⟨a, b, c, d, e, w, rfl, h₅⟩

theorem refValue_iff {v : List Byte} {r : TextRef} : refValue v = some r ↔ v = refBytes r ∧ True := by
  have refAt_iff (a b c : Byte) : refAt [a, b, c] 0 = some r ↔ [a, b, c] = refBytes r := by
    show refOf (a.toNat * 256 + b.toNat) c.toNat = some r ↔ _
    obtain ⟨row, len, fits⟩ := r
    unfold refOf
    constructor
    · intro read
      split at read
      · cases read
        show [a, b, c] = be16 (a.toNat * 256 + b.toNat) ++ [byte c.toNat]
        rw [be16_of_toNat, byte_toNat_self]
        rfl
      · exact absurd read nofun
    · intro bytes
      obtain ⟨rfl, rfl, rfl⟩ : a = byte (row / 256) ∧ b = byte row ∧ c = byte len := by simpa [refBytes, be16] using bytes
      have row_ : (byte (row / 256)).toNat * 256 + (byte row).toNat = row := be16_toNat (by omega)
      have len_ : (byte len).toNat = len := byte_toNat_of_lt (by omega)
      simp only [row_, len_]
      exact dif_pos fits
  rw [and_true, refValue]
  constructor
  · intro read
    split at read
    · next three =>
      obtain ⟨a, b, c, rfl⟩ := List.length_eq_three.mp three
      exact (refAt_iff a b c).mp read
    · exact absurd read nofun
  · rintro rfl
    exact (if_pos rfl).trans ((refAt_iff _ _ _).mpr rfl)

theorem lineOf_reads {v : List Byte} {l : LineConfig} : lineOf v = some l ↔ v.length = 5 ∧ byteAt v 0 ≤ 1 ∧
    (200 ≤ u16At v 1 ∧ u16At v 1 ≤ 1000) ∧ (1 ≤ byteAt v 3 ∧ byteAt v 3 ≤ 10) ∧ byteAt v 4 ≤ 120 ∧
    u16At v 1 % 50 = 0 ∧ ⟨byteAt v 0 == 1, u16At v 1, byteAt v 3, byteAt v 4⟩ = l := by
  simp only [lineOf, Option.ite_none_right_eq_some, Option.bind_eq_bind, Option.bind_eq_some_iff, inRange_iff,
    Nat.zero_le, true_and, and_assoc, exists_eq_left', Option.some.injEq]

theorem lineOf_iff {v : List Byte} {l : LineConfig} : lineOf v = some l ↔ v = lineBytes l ∧ l.inRange := by
  rw [lineOf_reads]
  constructor
  · rintro ⟨length, enabled, ⟨wide, narrow⟩, ⟨slow, fast⟩, wait, step, rfl⟩
    obtain ⟨a, b, c, d, e, w, rfl, none_⟩ := exists_five_of_length (n := 0) length
    obtain rfl := List.length_eq_zero_iff.mp none_
    refine ⟨?_, wide, narrow, step, slow, fast, wait⟩
    show [a, b, c, d, e] = [flag (a.toNat == 1)] ++ be16 (b.toNat * 256 + c.toNat) ++ [byte d.toNat, byte e.toNat]
    rw [be16_of_toNat, flag_read (b := a) enabled, byte_toNat_self, byte_toNat_self]
    rfl
  · rintro ⟨rfl, wide, narrow, step, slow, fast, wait⟩
    obtain ⟨small, enabled_⟩ : byteAt (lineBytes l) 0 ≤ 1 ∧ (byteAt (lineBytes l) 0 == 1) = l.enabled :=
      flag_toNat l.enabled
    have width_ : u16At (lineBytes l) 1 = l.width := be16_toNat (by omega)
    have fast_ : byteAt (lineBytes l) 3 = l.fast := byte_toNat_of_lt (by omega)
    have wait_ : byteAt (lineBytes l) 4 = l.wait := byte_toNat_of_lt (by omega)
    rw [enabled_, width_, fast_, wait_]
    exact ⟨rfl, small, ⟨wide, narrow⟩, ⟨slow, fast⟩, wait, step, rfl⟩

/-! ### Chain plans (6.1, R100) -/

theorem roleOfByte_iff {b : Byte} {r : Role} : roleOfByte b = some r ↔ b = roleByte r := by
  constructor
  · intro read
    rw [← byte_toNat_self b]
    unfold roleOfByte at read
    split at read <;> cases read <;> next n => rw [n]; rfl
  · rintro rfl
    cases r <;> rfl

theorem mapM_roleOfByte_iff {bs : List Byte} {roles : List Role} :
    bs.mapM roleOfByte = some roles ↔ bs = roles.map roleByte := by
  induction bs generalizing roles with
  | nil => cases roles <;> simp
  | cons b bs ih =>
    rw [List.mapM_cons]
    cases roles with
    | nil => simp [Option.bind_eq_some_iff]
    | cons r roles => simp [Option.bind_eq_some_iff, ih, roleOfByte_iff]

theorem planOf_reads {v : List Byte} {p : ChainPlan} : planOf v = some p ↔ v.length = 10 + byteAt v 2 ∧
    byteAt v 0 ≤ 1 ∧ (24 ≤ byteAt v 1 ∧ byteAt v 1 ≤ 64) ∧ (1 ≤ byteAt v 2 ∧ byteAt v 2 ≤ 12) ∧ byteAt v 3 ≤ 15 ∧
    byteAt v 4 ≤ 32 ∧ (4 ≤ byteAt v 6 ∧ byteAt v 6 ≤ 30) ∧ (250 ≤ u16At v 7 ∧ u16At v 7 ≤ 2000) ∧ byteAt v 9 ≤ 1 ∧
    ∃ roles, (v.drop 10).mapM roleOfByte = some roles ∧ byteAt v 5 ≤ listRows roles ∧
      ⟨byteAt v 0 == 1, byteAt v 1, roles, BitVec.ofNat 4 (byteAt v 3), byteAt v 4, byteAt v 5, byteAt v 6, u16At v 7,
        if byteAt v 9 = 0 then .clocktime else .countdown⟩ = p := by
  simp only [planOf, Option.ite_none_right_eq_some, Option.bind_eq_bind, Option.bind_eq_some_iff, inRange_iff,
    Nat.zero_le, true_and, and_assoc, exists_eq_left', Option.some.injEq, Option.pure_def]

theorem modeByte_toNat (mode : TimeMode) :
    (match mode with | .clocktime => 0 | .countdown => 1 : Byte).toNat ≤ 1 ∧
    (if (match mode with | .clocktime => 0 | .countdown => 1 : Byte).toNat = 0 then TimeMode.clocktime
      else .countdown) = mode := by
  cases mode <;> decide

theorem modeByte_read {b : Byte} (h : b.toNat ≤ 1) :
    (match (if b.toNat = 0 then TimeMode.clocktime else .countdown) with | .clocktime => 0 | .countdown => 1 : Byte) =
      b := by
  rw [← byte_toNat_self b]
  generalize b.toNat = n at h
  interval_cases n <;> rfl

theorem maskByte_read {b : Byte} (h : b.toNat ≤ 15) : byte (BitVec.ofNat 4 b.toNat).toNat = b := by
  rw [BitVec.toNat_ofNat, Nat.mod_eq_of_lt (by omega), byte_toNat_self]

theorem planOf_iff {v : List Byte} {p : ChainPlan} : planOf v = some p ↔ v = planBytes p ∧ p.inRange := by
  rw [planOf_reads]
  constructor
  · rintro ⟨length, enabled, ⟨wide, narrow⟩, ⟨some_, few⟩, mask, filter, ⟨slow, fast⟩, ⟨short, long⟩, mode, roles, read,
      pinned, rfl⟩
    obtain ⟨a0, a1, a2, a3, a4, v, rfl, rest⟩ := exists_five_of_length (length.trans (Nat.add_comm _ _))
    obtain ⟨a5, a6, a7, a8, a9, bytes, rfl, rest⟩ := exists_five_of_length rest
    obtain rfl : bytes = roles.map roleByte := mapM_roleOfByte_iff.mp read
    have count : roles.length = a2.toNat := (List.length_map _).symm.trans rest
    refine ⟨?_, wide, narrow, count ▸ some_, count ▸ few, filter, pinned, slow, fast, short, long⟩
    show _ = [flag (a0.toNat == 1), byte a1.toNat, byte roles.length, byte (BitVec.ofNat 4 a3.toNat).toNat,
      byte a4.toNat, byte a5.toNat, byte a6.toNat] ++ be16 (a7.toNat * 256 + a8.toNat) ++
      [(match (if a9.toNat = 0 then TimeMode.clocktime else .countdown) with | .clocktime => 0 | .countdown => 1 : Byte)]
      ++ roles.map roleByte
    rw [be16_of_toNat, flag_read (b := a0) enabled, maskByte_read (b := a3) mask, modeByte_read (b := a9) mode, count]
    simp only [byte_toNat_self]
    rfl
  · rintro ⟨rfl, wide, narrow, some_, few, filter, pinned, slow, fast, short, long⟩
    obtain ⟨small, enabled_⟩ : byteAt (planBytes p) 0 ≤ 1 ∧ (byteAt (planBytes p) 0 == 1) = p.enabled :=
      flag_toNat p.enabled
    have width_ : byteAt (planBytes p) 1 = p.width := byte_toNat_of_lt (by omega)
    have rows_ : byteAt (planBytes p) 2 = p.roles.length := byte_toNat_of_lt (by omega)
    have maskBound := p.sectorMask.isLt
    have mask_ : byteAt (planBytes p) 3 = p.sectorMask.toNat := byte_toNat_of_lt (by omega)
    have filter_ : byteAt (planBytes p) 4 = p.platformFilter := byte_toNat_of_lt (by omega)
    have lists : p.roles.count .list ≤ p.roles.length := List.count_le_length
    have pinned_ : byteAt (planBytes p) 5 = p.pinned := byte_toNat_of_lt (by omega)
    have page_ : byteAt (planBytes p) 6 = p.pagePeriod := byte_toNat_of_lt (by omega)
    have refresh_ : u16At (planBytes p) 7 = p.refreshPeriod := be16_toNat (by omega)
    obtain ⟨mode, mode_⟩ : byteAt (planBytes p) 9 ≤ 1 ∧
        (if byteAt (planBytes p) 9 = 0 then TimeMode.clocktime else .countdown) = p.timeMode :=
      modeByte_toNat p.timeMode
    have length : (planBytes p).length = 10 + p.roles.length := by
      simp [planBytes, be16]
      omega
    rw [width_, rows_, mask_, filter_, pinned_, page_, refresh_, enabled_, mode_]
    refine ⟨length, small, ⟨wide, narrow⟩, ⟨some_, few⟩, by omega, filter, ⟨slow, fast⟩, ⟨short, long⟩, mode, p.roles,
      mapM_roleOfByte_iff.mpr rfl, pinned, ?_⟩
    rw [BitVec.ofNat_toNat, BitVec.setWidth_eq]

end Sys2Proof.Machine
end

section
/-! The 47 items as a whole: what a write of one replaces and leaves, and the stored block read back (11.1, 11.2). -/

namespace Sys2Proof.Machine

/-! ### One item of a configuration -/

/-- A configuration with one item taken from another. -/
def Item.take (i : Item) (c d : Settings) : Settings :=
  match i with
  | .dayStart => { c with dayStart := d.dayStart }
  | .stepLimit => { c with stepLimit := d.stepLimit }
  | .onTimeTolerance => { c with onTimeTolerance := d.onTimeTolerance }
  | .callLead => { c with callLead := d.callLead }
  | .closeLead => { c with closeLead := d.closeLead }
  | .departGrace => { c with departGrace := d.departGrace }
  | .goneHold => { c with goneHold := d.goneHold }
  | .cancelHold => { c with cancelHold := d.cancelHold }
  | .delayCueThreshold => { c with delayCueThreshold := d.delayCueThreshold }
  | .delayCueStep => { c with delayCueStep := d.delayCueStep }
  | .conflictWindow => { c with conflictWindow := d.conflictWindow }
  | .changeFlash => { c with changeFlash := d.changeFlash }
  | .yieldTime => { c with yieldTime := d.yieldTime }
  | .holdSilence => { c with holdSilence := d.holdSilence }
  | .seizeEnable => { c with seizeEnable := d.seizeEnable }
  | .plan k => { c with plans := put c.plans k d.plans[k] }
  | .remark r => { c with remarks := setRemarkRef c.remarks r (remarkRef d.remarks r) }
  | .autoDelayNotices => { c with autoDelayNotices := d.autoDelayNotices }
  | .noticePeriod => { c with noticePeriod := d.noticePeriod }
  | .scheduling => { c with scheduling := d.scheduling }
  | .platformWeight => { c with platformWeight := d.platformWeight }
  | .delayWeight => { c with delayWeight := d.delayWeight }
  | .routineWeight => { c with routineWeight := d.routineWeight }
  | .playTimeout => { c with playTimeout := d.playTimeout }
  | .line k => { c with lines := put c.lines k d.lines[k] }
  | .routing k => { c with routing := setRoute c.routing k (routeFor d.routing k) }

/-- An item's value is in its range and consistent in itself (11.1). -/
def Item.fits (c : Settings) : Item → Prop
  | .dayStart => 0 ≤ c.dayStart ∧ c.dayStart ≤ 1439
  | .stepLimit => 1 ≤ c.stepLimit ∧ c.stepLimit ≤ 8
  | .onTimeTolerance => 0 ≤ c.onTimeTolerance ∧ c.onTimeTolerance ≤ 5
  | .callLead => 5 ≤ c.callLead ∧ c.callLead ≤ 60
  | .closeLead => 1 ≤ c.closeLead ∧ c.closeLead ≤ 10
  | .departGrace => 0 ≤ c.departGrace ∧ c.departGrace ≤ 10
  | .goneHold => 0 ≤ c.goneHold ∧ c.goneHold ≤ 5
  | .cancelHold => 0 ≤ c.cancelHold ∧ c.cancelHold ≤ 60
  | .delayCueThreshold => 1 ≤ c.delayCueThreshold ∧ c.delayCueThreshold ≤ 60
  | .delayCueStep => 1 ≤ c.delayCueStep ∧ c.delayCueStep ≤ 30
  | .conflictWindow => 0 ≤ c.conflictWindow ∧ c.conflictWindow ≤ 10
  | .changeFlash => 0 ≤ c.changeFlash ∧ c.changeFlash ≤ 15
  | .yieldTime => 5 ≤ c.yieldTime ∧ c.yieldTime ≤ 120
  | .holdSilence => 2 ≤ c.holdSilence ∧ c.holdSilence ≤ 60
  | .noticePeriod => 2 ≤ c.noticePeriod ∧ c.noticePeriod ≤ 10
  | .platformWeight => 1 ≤ c.platformWeight ∧ c.platformWeight ≤ 8
  | .delayWeight => 1 ≤ c.delayWeight ∧ c.delayWeight ≤ 8
  | .routineWeight => 1 ≤ c.routineWeight ∧ c.routineWeight ≤ 8
  | .playTimeout => 30 ≤ c.playTimeout ∧ c.playTimeout ≤ 600
  | .plan k => c.plans[k].inRange
  | .line k => c.lines[k].inRange
  | .seizeEnable | .autoDelayNotices | .scheduling | .remark _ | .routing _ => True

theorem remarkRef_setRemarkRef (t : RemarkTexts) (r : Remark) (x : TextRef) : remarkRef (setRemarkRef t r x) r = x := by
  cases r <;> rfl

theorem routeFor_setRoute (t : Routing) (k : RoutedKind) (r : Route) : routeFor (setRoute t k r) k = r := by
  cases k <;> rfl

theorem scheduling_iff {v : List Byte} {x : Scheduling} :
    (yesNo v).map (fun b => if b then Scheduling.weighted else .strict) = some x ↔
      v = [match x with | .strict => 0 | .weighted => 1] ∧ True := by
  rw [Option.map_eq_some_iff, and_true]
  constructor
  · rintro ⟨b, read, rfl⟩
    obtain ⟨rfl, -⟩ := yesNo_iff.mp read
    cases b <;> rfl
  · rintro rfl
    cases x with
    | strict => exact ⟨false, rfl, rfl⟩
    | weighted => exact ⟨true, rfl, rfl⟩

/-- What is stored through a reader of one item is that item alone. -/
theorem stored_iff {α : Type} {codec : Option α} {set : α → Settings} {get : Settings → α} {v bytes : List Byte}
    {range : Prop} {cfg : Settings} (own : ∀ a, get (set a) = a) (read : codec = some (get cfg) ↔ v = bytes ∧ range) :
    codec.map set = some cfg ↔ v = bytes ∧ range ∧ cfg = set (get cfg) := by
  rw [← and_assoc, ← read, Option.map_eq_some_iff]
  constructor
  · rintro ⟨a, codec_, rfl⟩
    rw [own]
    exact ⟨codec_, rfl⟩
  · rintro ⟨codec_, same⟩
    exact ⟨_, codec_, same.symm⟩

/-- A write of an item takes exactly the bytes of a value in range, and replaces that item alone (R186). -/
theorem Item.store_iff (i : Item) (c : Settings) (v : List Byte) (cfg : Settings) :
    i.store c v = some cfg ↔ v = i.value cfg ∧ i.fits cfg ∧ cfg = i.take c cfg := by
  cases i with
  | dayStart => exact stored_iff (get := Settings.dayStart) (fun _ => rfl) (twoBytes_iff (by decide))
  | stepLimit => exact stored_iff (get := Settings.stepLimit) (fun _ => rfl) (oneByte_iff (by decide))
  | onTimeTolerance => exact stored_iff (get := Settings.onTimeTolerance) (fun _ => rfl) (oneByte_iff (by decide))
  | callLead => exact stored_iff (get := Settings.callLead) (fun _ => rfl) (oneByte_iff (by decide))
  | closeLead => exact stored_iff (get := Settings.closeLead) (fun _ => rfl) (oneByte_iff (by decide))
  | departGrace => exact stored_iff (get := Settings.departGrace) (fun _ => rfl) (oneByte_iff (by decide))
  | goneHold => exact stored_iff (get := Settings.goneHold) (fun _ => rfl) (oneByte_iff (by decide))
  | cancelHold => exact stored_iff (get := Settings.cancelHold) (fun _ => rfl) (oneByte_iff (by decide))
  | delayCueThreshold => exact stored_iff (get := Settings.delayCueThreshold) (fun _ => rfl) (oneByte_iff (by decide))
  | delayCueStep => exact stored_iff (get := Settings.delayCueStep) (fun _ => rfl) (oneByte_iff (by decide))
  | conflictWindow => exact stored_iff (get := Settings.conflictWindow) (fun _ => rfl) (oneByte_iff (by decide))
  | changeFlash => exact stored_iff (get := Settings.changeFlash) (fun _ => rfl) (oneByte_iff (by decide))
  | yieldTime => exact stored_iff (get := Settings.yieldTime) (fun _ => rfl) (oneByte_iff (by decide))
  | holdSilence => exact stored_iff (get := Settings.holdSilence) (fun _ => rfl) (oneByte_iff (by decide))
  | seizeEnable => exact stored_iff (get := Settings.seizeEnable) (fun _ => rfl) yesNo_iff
  | plan k => exact stored_iff (get := fun c => c.plans[k]) (fun _ => put_here _ _ _) planOf_iff
  | remark r =>
    exact stored_iff (get := fun c => remarkRef c.remarks r) (fun _ => remarkRef_setRemarkRef _ _ _) refValue_iff
  | autoDelayNotices => exact stored_iff (get := Settings.autoDelayNotices) (fun _ => rfl) yesNo_iff
  | noticePeriod => exact stored_iff (get := Settings.noticePeriod) (fun _ => rfl) (oneByte_iff (by decide))
  | scheduling =>
    refine Iff.trans ?_ (stored_iff (get := Settings.scheduling) (set := fun x => { c with scheduling := x })
      (fun _ => rfl) scheduling_iff)
    rw [Option.map_map]
    rfl
  | platformWeight => exact stored_iff (get := Settings.platformWeight) (fun _ => rfl) (oneByte_iff (by decide))
  | delayWeight => exact stored_iff (get := Settings.delayWeight) (fun _ => rfl) (oneByte_iff (by decide))
  | routineWeight => exact stored_iff (get := Settings.routineWeight) (fun _ => rfl) (oneByte_iff (by decide))
  | playTimeout => exact stored_iff (get := Settings.playTimeout) (fun _ => rfl) (twoBytes_iff (by decide))
  | line k => exact stored_iff (get := fun c => c.lines[k]) (fun _ => put_here _ _ _) lineOf_iff
  | routing k =>
    exact stored_iff (get := fun c => routeFor c.routing k) (fun _ => routeFor_setRoute _ _ _) routeOf_iff

/-- What a configuration with one item taken from another holds of each item. -/
theorem Item.take_reads (i j : Item) (c d : Settings) : (j.value (i.take c d), j.fits (i.take c d)) =
    if j = i then (j.value d, j.fits d) else (j.value c, j.fits c) := by
  cases i with
  | plan k =>
    cases j with
    | plan l =>
      show (planBytes (put c.plans k d.plans[k])[l], (put c.plans k d.plans[k])[l].inRange) = _
      by_cases same : l = k
      · rw [if_pos (congrArg Item.plan same), same, put_here]
        rfl
      · rw [if_neg fun h => same (Item.plan.inj h), put_there _ same]
        rfl
    | _ => rfl
  | line k =>
    cases j with
    | line l =>
      show (lineBytes (put c.lines k d.lines[k])[l], (put c.lines k d.lines[k])[l].inRange) = _
      by_cases same : l = k
      · rw [if_pos (congrArg Item.line same), same, put_here]
        rfl
      · rw [if_neg fun h => same (Item.line.inj h), put_there _ same]
        rfl
    | _ => rfl
  | remark r =>
    cases j with
    | remark q => cases r <;> cases q <;> rfl
    | _ => rfl
  | routing k =>
    cases j with
    | routing l => cases k <;> cases l <;> rfl
    | _ => rfl
  | _ => cases j <;> rfl

theorem Item.value_take (i : Item) (c d : Settings) :
    i.value (i.take c d) = i.value d ∧ ∀ j : Item, j ≠ i → j.value (i.take c d) = j.value c :=
  ⟨(Prod.mk.inj ((i.take_reads i c d).trans (if_pos rfl))).1,
    fun j other => (Prod.mk.inj ((i.take_reads j c d).trans (if_neg other))).1⟩

theorem Item.fits_take {i : Item} {c d : Settings} (stored : i.fits d) (h : ∀ j : Item, j.fits c) (j : Item) :
    j.fits (i.take c d) := by
  by_cases same : j = i
  · subst same
    rw [(Prod.mk.inj ((j.take_reads j c d).trans (if_pos rfl))).2]
    exact stored
  · rw [(Prod.mk.inj ((i.take_reads j c d).trans (if_neg same))).2]
    exact h j

/-- A configuration is in its ranges where every item fits, and CLOSE LEAD is below CALL LEAD (R54). -/
theorem Settings.inRange_iff (c : Settings) : c.inRange ↔ (∀ i : Item, i.fits c) ∧ c.closeLead < c.callLead := by
  constructor
  · rintro ⟨base, timing, authority, plans, notices, cues, lines⟩
    refine ⟨fun i => ?_, by omega⟩
    cases i with
    | plan k => exact plans k
    | line k => exact lines k
    | _ => simp only [Item.fits] <;> omega
  · rintro ⟨fits, leads⟩
    refine ⟨⟨(fits .dayStart).2, fits .stepLimit⟩,
      ⟨(fits .onTimeTolerance).2, (fits .callLead).1, (fits .callLead).2, (fits .closeLead).1, (fits .closeLead).2, leads,
        (fits .departGrace).2, (fits .goneHold).2, (fits .cancelHold).2, (fits .delayCueThreshold).1,
        (fits .delayCueThreshold).2, (fits .delayCueStep).1, (fits .delayCueStep).2, (fits .conflictWindow).2,
        (fits .changeFlash).2⟩,
      ⟨(fits .yieldTime).1, (fits .yieldTime).2, fits .holdSilence⟩, fun k => fits (.plan k), fits .noticePeriod,
      ⟨(fits .platformWeight).1, (fits .platformWeight).2, (fits .delayWeight).1, (fits .delayWeight).2,
        (fits .routineWeight).1, (fits .routineWeight).2, fits .playTimeout⟩, fun k => fits (.line k)⟩

/-! ### Tags -/

theorem itemOfTag_tag (i : Item) : itemOfTag i.tag = some i := by
  cases i with
  | plan k => fin_cases k <;> rfl
  | line k => fin_cases k <;> rfl
  | remark r => cases r <;> rfl
  | routing k => cases k <;> rfl
  | _ => rfl

theorem tag_of_itemOfTag {t : Byte} {i : Item} (h : itemOfTag t = some i) : i.tag = t :=
  beq_iff_eq.mp (List.find?_some h :)

/-! ### The stored block (R187, R188) -/

/-- A bound on the length of an item's value: 22 for a plan of 12 rows, 5 for any other item. -/
def Item.longest : Item → Nat
  | .plan _ => 22
  | _ => 5

theorem Item.value_length_le {c : Settings} {i : Item} (h : i.fits c) : (i.value c).length ≤ i.longest := by
  cases i with
  | plan k =>
    obtain ⟨-, -, -, few, -⟩ := h
    show (planBytes c.plans[k]).length ≤ 22
    simp only [planBytes, be16, List.length_append, List.length_cons, List.length_nil, List.length_map]
    omega
  | _ => exact Nat.le_of_ble_eq_true rfl

theorem Item.longest_le (i : Item) : i.longest ≤ 22 := by
  cases i with
  | plan k => exact Nat.le_refl 22
  | _ => exact Nat.le_of_ble_eq_true rfl

/-- The item area holds 508 bytes or fewer. -/
theorem encoded_length_le {c : Settings} (h : ∀ i : Item, i.fits c) :
    (Item.all.flatMap (Item.encoded c)).length ≤ 508 := by
  rw [List.length_flatMap]
  calc (Item.all.map fun i => (i.encoded c).length).sum
      ≤ (Item.all.map fun i => i.longest + 2).sum := List.sum_le_sum fun i _ => by
        have := Item.value_length_le (h i)
        simp only [Item.encoded, List.length_append, List.length_cons, List.length_nil]
        omega
    _ ≤ 508 := by decide

theorem length_le_encoded (c : Settings) (items : List Item) :
    items.length ≤ (items.flatMap (Item.encoded c)).length := by
  induction items with
  | nil => exact Nat.le_refl 0
  | cons i items ih =>
    simp only [List.flatMap_cons, List.length_cons, List.length_append, Item.encoded]
    omega

theorem splitItems_encoded {c : Settings} {items : List Item} (h : ∀ i ∈ items, (i.value c).length < 256) {fuel : Nat}
    (enough : items.length ≤ fuel) :
    splitItems fuel (items.flatMap (Item.encoded c)) = items.map fun i => (i.tag, i.value c) := by
  induction items generalizing fuel with
  | nil => cases fuel <;> rfl
  | cons i items ih =>
    obtain ⟨fuel, rfl⟩ : ∃ n, fuel = n + 1 := Nat.exists_eq_add_one.mpr (Nat.lt_of_lt_of_le (Nat.succ_pos _) enough)
    have length : (byte (i.value c).length).toNat = (i.value c).length :=
      byte_toNat_of_lt (h i List.mem_cons_self)
    show splitItems (fuel + 1) (i.tag :: byte (i.value c).length :: (i.value c ++ items.flatMap (Item.encoded c))) = _
    rw [splitItems, length, if_pos (by simp), List.take_left, List.drop_left,
      ih (fun j mem => h j (List.mem_cons_of_mem i mem)) (Nat.le_of_succ_le_succ enough), List.map_cons]

theorem Item.take_take (i : Item) (c d : Settings) : i.take c (i.take c d) = i.take c d := by
  cases i with
  | plan k => exact congrArg (fun x => ({ c with plans := put c.plans k x } : Settings)) (put_here _ _ _)
  | line k => exact congrArg (fun x => ({ c with lines := put c.lines k x } : Settings)) (put_here _ _ _)
  | remark r => cases r <;> rfl
  | routing k => cases k <;> rfl
  | _ => rfl

/-- Every value in range is one that a write accepts (R186). -/
theorem Item.store_value {cfg : Settings} {i : Item} (h : i.fits cfg) (c : Settings) :
    i.store c (i.value cfg) = some (i.take c cfg) := by
  have fits : i.fits (i.take c cfg) = i.fits cfg := (Prod.mk.inj ((i.take_reads i c cfg).trans (if_pos rfl))).2
  exact (i.store_iff c _ _).mpr ⟨(i.value_take c cfg).1.symm, fits ▸ h, (i.take_take c cfg).symm⟩

theorem takeItem_value {cfg : Settings} {i : Item} (h : i.fits cfg) (c : Settings) :
    takeItem c (i.tag, i.value cfg) = i.take c cfg := by
  rw [takeItem, itemOfTag_tag]
  exact congrArg (·.getD (i.restore c)) (Item.store_value h c)

theorem put_all {α : Type} (v w : Vector α 4) :
    put (put (put (put v 0 w[(0 : Fin 4)]) 1 w[(1 : Fin 4)]) 2 w[(2 : Fin 4)]) 3 w[(3 : Fin 4)] = w := by
  ext i hi
  interval_cases i <;> simp [put]

/-- Every item taken is the whole configuration taken: there is nothing else in it (11.1). -/
theorem take_all (c d : Settings) : Item.all.foldl (fun x i => i.take x d) c = d := by
  obtain ⟨⟩ := c
  obtain ⟨_, _, _, _, _, _, _, _, _, _, _, _, _, _, _, _, ⟨⟩, _, _, _, _, _, _, _, _, ⟨⟩⟩ := d
  simp only [Item.all, List.cons_append, List.nil_append, List.foldl_cons, List.foldl_nil, Item.take, setRemarkRef,
    remarkRef, setRoute, routeFor, put_all]

theorem u16At_append (a b : List Byte) : u16At (a ++ b) a.length = u16At b 0 := by
  simp [u16At, byteAt, List.getD_eq_getElem?_getD, List.getElem?_append_right]

theorem u16At_be16 {n : Nat} (h : n < 65536) (rest : List Byte) : u16At (be16 n ++ rest) 0 = n := be16_toNat h

/-- A block of an item area with its length before it and its CRC behind it passes (R188). -/
theorem intact_of_crc {items : List Byte} (short : items.length ≤ 508) : (StoredBlock.mk
    ((be16 items.length ++ items) ++ be16 (crc16 (be16 items.length ++ items)).toNat) false).intact = true := by
  have length : u16At ((be16 items.length ++ items) ++ be16 (crc16 (be16 items.length ++ items)).toNat) 0 =
      items.length := by
    rw [List.append_assoc]
    exact u16At_be16 (by omega) _
  have body : (be16 items.length ++ items).length = items.length + 2 := by
    simp [be16]
  have crc : u16At ((be16 items.length ++ items) ++ be16 (crc16 (be16 items.length ++ items)).toNat)
      (items.length + 2) = (crc16 (be16 items.length ++ items)).toNat := by
    rw [← body, u16At_append, ← List.append_nil (be16 _)]
    exact u16At_be16 (BitVec.isLt _) []
  have whole : ((be16 items.length ++ items) ++ be16 (crc16 (be16 items.length ++ items)).toNat).length =
      items.length + 4 := by
    rw [List.length_append, body]
    rfl
  unfold StoredBlock.intact
  dsimp only
  rw [length, crc, whole, List.take_left' body]
  simpa using short

theorem settings_encodeBlock {cfg : Settings} (h : cfg.inRange) :
    (StoredBlock.mk (encodeBlock cfg) false).settings = cfg := by
  obtain ⟨fits, leads⟩ := (Settings.inRange_iff cfg).mp h
  have short := encoded_length_le fits
  unfold StoredBlock.settings encodeBlock
  generalize area : Item.all.flatMap (Item.encoded cfg) = items at *
  have length : u16At ((be16 items.length ++ items) ++ be16 (crc16 (be16 items.length ++ items)).toNat) 0 =
      items.length := by
    rw [List.append_assoc]
    exact u16At_be16 (by omega) _
  have area_ : (((be16 items.length ++ items) ++ be16 (crc16 (be16 items.length ++ items)).toNat).drop 2).take
      items.length = items := List.take_left
  have split : splitItems items.length items = Item.all.map fun i => (i.tag, i.value cfg) := by
    rw [← area]
    refine splitItems_encoded (fun i _ => ?_) ?_
    · have := Item.value_length_le (fits i)
      have := i.longest_le
      omega
    · exact area ▸ length_le_encoded cfg Item.all
  dsimp only
  rw [length, area_, split, List.foldl_map]
  simp only [takeItem_value (fits _)]
  rw [take_all, mendLeads, leadsOrdered, decide_eq_true leads]
  rfl

end Sys2Proof.Machine
end

section
open Sys2Proof Sys2Proof.Machine

/-- Settles O56: the item area splits into the items again, each is stored as its value, and together they are the
configuration. -/
theorem storedBlockGivesBackTheConfiguration : Obligations.StoredBlockGivesBackTheConfiguration :=
  fun cfg h => ⟨intact_of_crc (encoded_length_le ((Settings.inRange_iff cfg).mp h).1), settings_encodeBlock h⟩

end

section
/-! WRITE CONFIG ITEM and READ CONFIG ITEM (R186): the checks in their order, and the effects of a write. -/

namespace Sys2Proof.Machine

/-! ### The checks of a write -/

theorem Item.isLead_iff (i : Item) : i.isLead = true ↔ i = .callLead ∨ i = .closeLead := by
  cases i <;> simp [Item.isLead]

theorem leadsOrdered_false_iff (c : Settings) : leadsOrdered c = false ↔ c.callLead ≤ c.closeLead := by
  simp [leadsOrdered]

/-- A write of a known item and a value in its range, by the checks that follow (R186, R54, R18). -/
theorem writeItemServed_stored {s : State} {tag : Byte} {value : List Byte} {i : Item} {cfg : Settings}
    (item : itemOfTag tag = some i) (stored : i.store s.settings value = some cfg) :
    writeItemServed (tag, value) s =
      if i.isLead ∧ leadsOrdered cfg = false then refuse s .badArgument
      else if i = .dayStart ∧ s.time.state ≠ .unset then refuse s .wrongState
      else done (i.written { s with settings := cfg }) [] := by
  simp only [writeItemServed, item, stored]

theorem writeItemServed_unknown {s : State} {tag : Byte} {value : List Byte} (item : itemOfTag tag = none) :
    writeItemServed (tag, value) s = refuse s .badArgument := by
  simp only [writeItemServed, item]

theorem writeItemServed_unstored {s : State} {tag : Byte} {value : List Byte} {i : Item}
    (item : itemOfTag tag = some i) (unstored : i.store s.settings value = none) :
    writeItemServed (tag, value) s = refuse s .badArgument := by
  simp only [writeItemServed, item, unstored]

/-- A configuration in its ranges stays in them under a write that passes the checks. -/
theorem Item.store_inRange {i : Item} {c cfg : Settings} {value : List Byte} (stored : i.store c value = some cfg)
    (leads : i.isLead = true → cfg.closeLead < cfg.callLead) (h : c.inRange) : cfg.inRange := by
  obtain ⟨-, fits, taken⟩ := (i.store_iff c value cfg).mp stored
  obtain ⟨every, ordered⟩ := (Settings.inRange_iff c).mp h
  refine (Settings.inRange_iff cfg).mpr ⟨fun j => taken ▸ Item.fits_take fits every j, ?_⟩
  cases lead : i.isLead with
  | true => exact leads lead
  | false =>
    have kept : (i.take c cfg).closeLead = c.closeLead ∧ (i.take c cfg).callLead = c.callLead := by
      cases i with
      | callLead | closeLead => exact absurd lead nofun
      | _ => exact ⟨rfl, rfl⟩
    rw [taken, kept.1, kept.2]
    exact ordered

/-! ### What a write leaves (R186) -/

theorem State.changesLine.frame {s t : State} {l : Line} (h : s.changesLine t l) : t = { s with
    ports := t.ports, cues := t.cues, links := t.links, clock := t.clock, retention := t.retention, table := t.table } := by
  obtain ⟨-, only, -, -⟩ := h
  generalize t.clock.lines = lines at only
  generalize t.retention = retention at *
  generalize t.ports = ports at *
  subst only
  rfl

theorem State.lineWritten_changesLine (s : State) (l : Line) : s.changesLine (s.lineWritten l) l := by
  unfold State.lineWritten
  split
  · exact s.evaluateLine_changesLine l
  · exact (s.turnOff_changesLine l).1

/-- The blocks that a write does not have effects in stand, each named with the items that reach it. -/
theorem Item.written_stands (i : Item) (s : State) :
    i.written s = { s with
      ports := (i.written s).ports, cues := (i.written s).cues, links := (i.written s).links
      clock := (i.written s).clock, retention := (i.written s).retention, table := (i.written s).table } ∧
    ((∀ k, i ≠ .plan k) → (i.written s).links = s.links) ∧
    ((∀ k, i ≠ .line k) → (i.written s).clock = s.clock ∧ (i.written s).retention = s.retention) ∧
    (i ≠ .conflictWindow → (i.written s).table = s.table) ∧
    ((∀ k, i ≠ .line k) → i ≠ .conflictWindow → (i.written s).ports = s.ports) ∧
    ((i ≠ .scheduling ∧ i ≠ .platformWeight ∧ i ≠ .delayWeight ∧ i ≠ .routineWeight) →
      (i.written s).cues = s.cues) := by
  cases i with
  | conflictWindow =>
    show s.conflictCheck = _ ∧ _
    refine ⟨?_, fun _ => State.raiseAll_links _ _, fun _ => ⟨State.raiseAll_clock _ _, State.raiseAll_retention _ _⟩,
      fun other => absurd rfl other, fun _ other => absurd rfl other, fun _ => State.raiseAll_cues _ _⟩
    apply State.eq_of_fields <;> simp [Item.written, State.conflictCheck]
  | plan k =>
    have standing : s.leaveHalted k = { s with links := (s.leaveHalted k).links } := by
      unfold State.leaveHalted
      split <;> rfl
    have at_ : (Item.plan k).written s = s.leaveHalted k := rfl
    rw [at_]
    generalize s.leaveHalted k = t at standing
    generalize t.links = links at standing
    subst standing
    exact ⟨rfl, fun other => absurd rfl (other k), fun _ => ⟨rfl, rfl⟩, fun _ => rfl, fun _ _ => rfl, fun _ => rfl⟩
  | line k =>
    have changes := s.lineWritten_changesLine k
    have only := changes.2.1
    exact ⟨changes.frame, fun _ => (congrArg State.links only :), fun other => absurd rfl (other k),
      fun _ => (congrArg State.table only :), fun other => absurd rfl (other k), fun _ => (congrArg State.cues only :)⟩
  | scheduling => exact ⟨rfl, fun _ => rfl, fun _ => ⟨rfl, rfl⟩, fun _ => rfl, fun _ _ => rfl, fun h => absurd rfl h.1⟩
  | platformWeight =>
    exact ⟨rfl, fun _ => rfl, fun _ => ⟨rfl, rfl⟩, fun _ => rfl, fun _ _ => rfl, fun h => absurd rfl h.2.1⟩
  | delayWeight =>
    exact ⟨rfl, fun _ => rfl, fun _ => ⟨rfl, rfl⟩, fun _ => rfl, fun _ _ => rfl, fun h => absurd rfl h.2.2.1⟩
  | routineWeight =>
    exact ⟨rfl, fun _ => rfl, fun _ => ⟨rfl, rfl⟩, fun _ => rfl, fun _ _ => rfl, fun h => absurd rfl h.2.2.2⟩
  | _ => exact ⟨rfl, fun _ => rfl, fun _ => ⟨rfl, rfl⟩, fun _ => rfl, fun _ _ => rfl, fun _ => rfl⟩

/-! ### The effects of a write, on a state whose port is served -/

theorem State.conflictCheck_setService (s : State) (p : Port) (v : Service) :
    (s.setService p v).conflictCheck = s.conflictCheck.setService p v := by
  have placed (t : Table) : ({ s.setService p v with table := t } : State) =
      ({ s with table := t } : State).setService p v := by cases p <;> rfl
  unfold State.conflictCheck
  dsimp only
  rw [placed, State.raiseAll_setService, State.setService_settings, State.setService_table]

theorem State.leaveHalted_setService (s : State) (p : Port) (v : Service) (k : Chain) :
    (s.setService p v).leaveHalted k = (s.leaveHalted k).setService p v := by
  have moved (l : Link) : (s.setService p v).setLink k l = (s.setLink k l).setService p v := by cases p <;> rfl
  unfold State.leaveHalted
  rw [State.setService_settings, State.setService_links, moved, State.ite_setService]

theorem State.lineWritten_setService (s : State) (p : Port) (v : Service) (l : Line) :
    (s.setService p v).lineWritten l = (s.lineWritten l).setService p v := by
  unfold State.lineWritten
  rw [State.setService_settings, State.evaluateLine_setService, State.turnOff_setService, State.ite_setService]

theorem Item.written_setService (i : Item) (s : State) (p : Port) (v : Service) :
    i.written (s.setService p v) = (i.written s).setService p v := by
  cases i with
  | conflictWindow => exact s.conflictCheck_setService p v
  | plan k => exact s.leaveHalted_setService p v k
  | line k => exact s.lineWritten_setService p v k
  | _ => cases p <;> rfl

theorem State.setService_withSettings (s : State) (p : Port) (v : Service) (cfg : Settings) :
    ({ s.setService p v with settings := cfg } : State) = ({ s with settings := cfg } : State).setService p v := by
  cases p <;> rfl

/-- The checks of the command in service, and the write behind them. -/
theorem writeItemServed_serving {s : State} {tag : Byte} {value : List Byte} {i : Item} {cfg : Settings}
    (item : itemOfTag tag = some i) (stored : i.store s.settings value = some cfg) (p : Port) (v : Service) :
    writeItemServed (tag, value) (s.setService p v) =
      if i.isLead ∧ leadsOrdered cfg = false then refuse (s.setService p v) .badArgument
      else if i = .dayStart ∧ s.time.state ≠ .unset then refuse (s.setService p v) .wrongState
      else done ((i.written { s with settings := cfg }).setService p v) [] := by
  rw [writeItemServed_stored item (by rw [State.setService_settings]; exact stored), State.setService_withSettings,
    Item.written_setService, State.setService_time]

/-! ### The effects, block by block -/

theorem Item.written_reloads {i : Item}
    (h : i = .scheduling ∨ i = .platformWeight ∨ i = .delayWeight ∨ i = .routineWeight) (s : State) :
    (i.written s).cues = { s.cues with
      creditPlatform := s.settings.platformWeight, creditDelay := s.settings.delayWeight
      creditRoutine := s.settings.routineWeight } := by
  rcases h with rfl | rfl | rfl | rfl <;> rfl

theorem State.leaveHalted_halted {s : State} {k : Chain} (enabled : s.settings.plans[k].enabled = true)
    (halted : s.links[k].state = .halted) :
    s.leaveHalted k = s.setLink k { s.links[k] with state := .ended, refresh := .runOut } :=
  if_pos ⟨enabled, halted⟩

theorem State.leaveHalted_stands {s : State} {k : Chain}
    (h : s.settings.plans[k].enabled = false ∨ s.links[k].state ≠ .halted) : s.leaveHalted k = s := by
  refine if_neg fun ⟨enabled, halted⟩ => ?_
  rcases h with disabled | running
  · exact absurd (enabled.symm.trans disabled) nofun
  · exact running halted

theorem State.lineWritten_disabled {s : State} {l : Line} (h : s.settings.lines[l].enabled = false) :
    s.lineWritten l = s.turnOff l :=
  if_neg (by rw [h]; exact Bool.false_ne_true)

theorem State.lineWritten_enabled {s : State} {l : Line} (h : s.settings.lines[l].enabled = true) :
    s.lineWritten l = s.evaluateLine l := if_pos h

theorem State.turnOff_off {s : State} {l : Line} (h : s.clock.lines[l].state = .off) : s.turnOff l = s := if_pos h

/-- A line turned off or evaluated by the write of its item (R168, logs 39, 46). -/
theorem State.lineWritten_spec (s : State) (l : Line) :
    (s.settings.lines[l].enabled = false →
      (s.lineWritten l).retention = s.retention ∧
      (s.clock.lines[l].state = .off → (s.lineWritten l).clock = s.clock) ∧
      (s.clock.lines[l].state ≠ .off → s.clock.lines[l].impulse = none → (s.lineWritten l).clock.lines[l] =
        { s.clock.lines[l] with state := .off, offRequested := false, spacing := .stopped }) ∧
      (s.clock.lines[l].state ≠ .off → s.clock.lines[l].impulse ≠ none →
        (s.lineWritten l).clock.lines[l] = { s.clock.lines[l] with offRequested := true })) ∧
    (s.settings.lines[l].enabled = true →
      ((s.clock.lines[l].state.evaluable = false ∨ s.clock.lines[l].impulse ≠ none) → s.lineWritten l = s) ∧
      (∀ m, s.clock.lines[l].state.evaluable = true → s.clock.lines[l].impulse = none →
        s.clock.lines[l].shown = some m →
        s.evaluates l m s.clock.lines[l] (s.lineWritten l).clock.lines[l] s.retention.entries[l]
          (s.lineWritten l).retention.entries[l])) := by
  refine ⟨fun disabled => ?_, fun enabled => ?_⟩
  · rw [State.lineWritten_disabled disabled]
    refine ⟨(s.turnOff_changesLine l).2, fun off => ?_, fun live idle => ?_, fun live flies => ?_⟩
    · rw [State.turnOff_off off]
    · rw [State.turnOff_idle live idle]
      exact (s.becomeOff_spec l).2.2
    · rw [State.turnOff_flies live flies]
      exact s.setLine_line l _
  · rw [State.lineWritten_enabled enabled]
    exact ⟨(s.evaluateLine_spec l).1, fun m => State.evaluateLine_evaluates⟩

/-- The conflict check: the pair set is that of the conflicting pairs, and every flag follows it (R27). -/
theorem State.conflictCheck_spec (s : State) :
    s.conflictCheck.table =
      { s.table with slots := s.conflictCheck.table.slots, pairs := s.conflictCheck.table.pairs } ∧
    (∀ j : Slot, (s.conflictCheck.table.slots[j]).map Record.unflagged = (s.table.slots[j]).map Record.unflagged) ∧
    (∀ a b : Slot, (a, b) ∈ s.conflictCheck.table.pairs ↔
      a < b ∧ s.conflictCheck.table.conflictPair s.settings.conflictWindow a b = true) ∧
    s.conflictCheck.table.pairs.Pairwise (fun p q => p.1 < q.1 ∨ p.1 = q.1 ∧ p.2 < q.2) ∧
    (∀ (j : Slot) (r : Record), s.conflictCheck.table.slots[j] = some r →
      (r.conflict = true ↔
        ∃ k : Slot, (j, k) ∈ s.conflictCheck.table.pairs ∨ (k, j) ∈ s.conflictCheck.table.pairs)) := by
  have table : s.conflictCheck.table = s.table.checked s.settings.conflictWindow := State.raiseAll_table _ _
  obtain ⟨unflagged, -, pairs, frame⟩ := s.table.checked_spec s.settings.conflictWindow
  rw [table]
  refine ⟨frame, unflagged, fun a b => ?_, pairs ▸ s.table.conflicts_ascending _, s.table.checked_flag _⟩
  rw [pairs, Table.mem_conflicts, Table.conflictPair_unflagged _ _ s.settings.conflictWindow a b (unflagged a) (unflagged b)]

/-- The events of the conflict check of a state, by the pairs it adds (R28). -/
theorem State.conflictCheck_ports (s : State) : s.conflictCheck.ports =
    (s.raiseAll ((s.conflictCheck.table.pairs.filter fun p => decide (p ∉ s.table.pairs)).map fun p =>
      Event.platformConflict ((s.conflictCheck.table.slots[p.1].bind fun r => r.platform).getD 0) p.1 p.2)).ports := by
  have table : s.conflictCheck.table = s.table.checked s.settings.conflictWindow := State.raiseAll_table _ _
  have events : s.table.conflictEvents s.settings.conflictWindow =
      ((s.table.checked s.settings.conflictWindow).pairs.filter fun p => decide (p ∉ s.table.pairs)).map fun p =>
        Event.platformConflict (((s.table.checked s.settings.conflictWindow).slots[p.1].bind fun r => r.platform).getD 0)
          p.1 p.2 := by
    rw [Table.conflictEvents, (s.table.checked_spec _).2.2.1]
    refine congr_arg₂ List.map (funext fun p => ?_) (List.filter_congr fun p _ => ?_)
    · rw [Table.checked_platform]
      rfl
    · by_cases kept : p ∈ s.table.pairs <;> simp [kept]
  rw [table, ← events]
  show (({ s with table := s.table.checked _, cues := s.cues } : State).raiseAll _).ports = _
  rw [State.raiseAll_with]

/-! ### Reading an item -/

theorem readItemServed_known {tag : Byte} {i : Item} (item : itemOfTag tag = some i) (s : State) :
    readItemServed [tag] s = done s (i.encoded s.settings) := by
  simp only [readItemServed, item]

theorem readItemServed_unknown {payload : List Byte}
    (h : (∀ tag, payload ≠ [tag]) ∨ ∃ tag, payload = [tag] ∧ itemOfTag tag = none) (s : State) :
    readItemServed payload s = refuse s .badArgument := by
  rcases h with other | ⟨tag, rfl, unknown⟩
  · unfold readItemServed
    split
    · next tag => exact absurd rfl (other tag)
    · rfl
  · simp only [readItemServed, unknown]

end Sys2Proof.Machine
end

section
open Sys2Proof Sys2Proof.Machine

/-- Settles O54: the checks by what the write reads of its item, and the effects by the item that is written. -/
theorem configurationItemsAreWrittenAndRead : Obligations.ConfigurationItemsAreWrittenAndRead := by
  refine fun c payload s => ⟨fun commanded holds tag value parsed_ => ?_, fun commanded =>
    ⟨fun tag i bytes item => ?_, fun unknown => ?_⟩⟩
  · have served {t : State} {r : Reply}
        (h : writeItemServed (tag, value) (s.setService c.port (.serving codeWriteConfigItem payload .taken)) =
          (t.setService c.port (.serving codeWriteConfigItem payload .taken), some r)) :
        exec (.writeConfigItem c) s = .next (t.answered c.port codeWriteConfigItem payload r) :=
      serve_authorised_answers commanded holds parsed_ h
    refine ⟨fun unknown => served (writeItemServed_unknown unknown), fun i item => ⟨fun unstored => served ?_,
      fun cfg within same => ?_, fun cfg stored => ?_⟩⟩
    · exact writeItemServed_unstored item (by rw [State.setService_settings]; exact unstored)
    · rw [same, Item.store_value ((Settings.inRange_iff cfg).mp within |>.1 i)]
      nofun
    · have checks := writeItemServed_serving item stored c.port (.serving codeWriteConfigItem payload .taken)
      refine ⟨fun lead broken => served (checks.trans (if_pos
          ⟨i.isLead_iff.mpr lead, (leadsOrdered_false_iff _).mpr broken⟩)),
        fun dayStart set => served ?_, fun leads unset => ?_⟩
      · subst dayStart
        exact checks.trans ((if_neg fun h => absurd h.1 nofun).trans (if_pos ⟨rfl, set⟩))
      · have ordered : ¬ (i.isLead = true ∧ leadsOrdered cfg = false) := fun ⟨lead, broken⟩ =>
          Nat.not_lt.mpr ((leadsOrdered_false_iff _).mp broken) (leads (i.isLead_iff.mp lead))
        have free : ¬ (i = .dayStart ∧ s.time.state ≠ .unset) := fun ⟨dayStart, set⟩ => set (unset dayStart)
        have done_ := served (t := i.written { s with settings := cfg }) (r := ⟨.done, []⟩) (by
          rw [checks, if_neg ordered, if_neg free, done])
        obtain ⟨frame, links, line, table, ports, cues⟩ := i.written_stands { s with settings := cfg }
        obtain ⟨bytes, -, taken⟩ := (i.store_iff s.settings value cfg).mp stored
        have replied := State.answered_service (i.written { s with settings := cfg }) c.port codeWriteConfigItem payload
          ⟨.done, []⟩
        have answered := State.answered_frame (i.written { s with settings := cfg }) c.port codeWriteConfigItem payload
          ⟨.done, []⟩
        have portsAfter (u : State) (h : (i.written { s with settings := cfg }).ports = u.ports) :=
          State.answered_ports h c.port codeWriteConfigItem payload ⟨.done, []⟩
        have changes {l : Line} (h : State.changesLine { s with settings := cfg } (i.written { s with settings := cfg }) l) :=
          State.changesLine_answered h c.port codeWriteConfigItem payload ⟨.done, []⟩
        generalize (i.written { s with settings := cfg }).answered c.port codeWriteConfigItem payload ⟨.done, []⟩ = t at *
        generalize w_ : i.written { s with settings := cfg } = w at *
        have settings : t.settings = cfg := by rw [answered, frame]
        have links_ : t.links = w.links := by rw [answered]
        have clock_ : t.clock = w.clock := by rw [answered]
        have retention_ : t.retention = w.retention := by rw [answered]
        have table_ : t.table = w.table := by rw [answered]
        have cues_ : t.cues = w.cues := by rw [answered]
        refine ⟨t, done_, settings, bytes.symm, fun j other => ?_,
          Item.store_inRange stored fun lead => leads (i.isLead_iff.mp lead), replied, ?_,
          fun other => links_.trans (links other), fun other => ?_, fun other => table_.trans (table other), fun window => ?_,
          fun other others => portsAfter s (ports other others), fun other => cues_.trans (cues other), fun credit => ?_,
          fun k plan enabled halted => ?_, fun k plan stands => ?_, fun k lineItem => ?_⟩
        · rw [taken]
          exact (i.value_take s.settings cfg).2 j other
        · rw [links_, clock_, retention_, table_, cues_]
          rw [frame] at answered
          exact answered
        · rw [clock_, retention_]
          exact line other
        · subst window w_
          rw [table_]
          obtain ⟨frame_, unflagged, pairs, ascending, flags⟩ := State.conflictCheck_spec { s with settings := cfg }
          refine ⟨frame_, unflagged, pairs, ascending, flags, fun conflicts conflicts_ => portsAfter _ ?_⟩
          rw [conflicts_]
          exact State.conflictCheck_ports { s with settings := cfg }
        · subst w_
          exact cues_.trans (Item.written_reloads credit _)
        · subst plan w_
          have halted_ := State.leaveHalted_halted (s := { s with settings := cfg }) enabled halted
          rw [links_]
          show (State.leaveHalted _ k).links[k] = _ ∧ ∀ j : Chain, j ≠ k → (State.leaveHalted _ k).links[j] = _
          rw [halted_]
          exact ⟨put_here _ _ _, fun j other => put_there _ other _⟩
        · subst plan w_
          exact links_.trans (congrArg State.links (State.leaveHalted_stands (s := { s with settings := cfg }) stands) :)
        · subst lineItem w_
          rw [clock_, retention_]
          obtain ⟨turnedOff, evaluated⟩ := State.lineWritten_spec { s with settings := cfg } k
          refine ⟨changes (State.lineWritten_changesLine _ k), turnedOff, fun enabled =>
            ⟨fun closed => ?_, (evaluated enabled).2⟩⟩
          have stands := (evaluated enabled).1 closed
          exact ⟨(congrArg State.clock stands :), (congrArg State.retention stands :)⟩
  · refine serve_answers commanded ?_
    rw [bytes, readItemServed_known item, State.setService_settings]
    rfl
  · refine serve_answers commanded ?_
    rw [readItemServed_unknown unknown, refuse]

end

section
/-! LIST rows (6.4): the texts of a row, its seven fields, and the row of a page-list entry. -/

namespace Sys2Proof.Machine

/-! ### Texts (R107) -/

/-- A text is its shown part and the spaces at its end. -/
theorem trimmed_spec (bs : List Byte) :
    ∃ n, bs = trimmed bs ++ List.replicate n 0x20 ∧ (trimmed bs).getLast? ≠ some 0x20 := by
  have ends : (bs.reverse.takeWhile (· == 0x20)).reverse =
      List.replicate (bs.reverse.takeWhile (· == 0x20)).length 0x20 := by
    rw [List.eq_replicate_iff, List.length_reverse]
    refine ⟨rfl, fun b mem => ?_⟩
    have space : (b == 0x20) = true := List.mem_takeWhile_imp (p := (· == 0x20)) (List.mem_reverse.mp mem)
    exact beq_iff_eq.mp space
  refine ⟨(bs.reverse.takeWhile (· == 0x20)).length, ?_, fun last => ?_⟩
  · rw [← ends, trimmed, ← List.reverse_append, List.takeWhile_append_dropWhile, List.reverse_reverse]
  · rw [trimmed, List.getLast?_reverse] at last
    have stops := List.head?_dropWhile_not (· == (0x20 : Byte)) bs.reverse
    rw [last] at stops
    exact absurd stops (by decide)

theorem TextStore.read_length (t : TextStore) (x : TextRef) : (t.read x).length = x.len := by
  simp [TextStore.read]

theorem TextStore.read_displayed (t : TextStore) (x : TextRef) {k : Nat} (h : k < x.len) :
    ((t.read x).map displayed)[k]? = some (displayed (t.visible (x.row * 16 + k))) := by
  simp [TextStore.read, h]

theorem civilText_digits {dayStart h : Nat} {m : Int} (civil : (h : Int) = ((dayStart : Int) + m) % 1440) :
    civilText dayStart m =
      [byte (0x30 + h / 600), byte (0x30 + h / 60 % 10), 0x3A, byte (0x30 + h % 60 / 10), byte (0x30 + h % 60 % 10)] := by
  have minute : civilMinute dayStart m = h := by
    rw [civilMinute, ← civil]
    rfl
  have tens : h / 60 / 10 % 10 = h / 600 := by omega
  have tenMinutes : h % 60 / 10 % 10 = h % 60 / 10 := by omega
  show [byte (0x30 + civilMinute dayStart m / 60 / 10 % 10), byte (0x30 + civilMinute dayStart m / 60 % 10), 0x3A,
    byte (0x30 + civilMinute dayStart m % 60 / 10 % 10), byte (0x30 + civilMinute dayStart m % 60 % 10)] = _
  rw [minute, tens, tenMinutes]

theorem rightAligned_length {n : Nat} {bs : List Byte} (h : bs.length ≤ n) : (rightAligned n bs).length = n := by
  simp [rightAligned, spaces, h]

theorem decimal_digit {n : Nat} (h : n < 10) : decimal n = [byte (0x30 + n)] := by
  rw [decimal, if_pos h, digit, Nat.mod_eq_of_lt h]

theorem decimal_digits {n : Nat} (h : 10 ≤ n) (small : n ≤ 99) :
    decimal n = [byte (0x30 + n / 10), byte (0x30 + n % 10)] := by
  rw [decimal, if_neg (Nat.not_lt.mpr h), twoDigits, digit, digit, Nat.mod_eq_of_lt (by omega : n / 10 < 10)]

/-! ### The time field (R109, R68) -/

theorem timeField_clock {s : State} {mode : TimeMode} {r : Record}
    (h : mode = .clocktime ∨ s.table.timed = false ∨ (∃ m, r.state = .gone m) ∨ ∃ m, r.state = .cancelled m) :
    timeField s mode r = civilText s.settings.dayStart r.sched := by
  unfold timeField
  rcases h with clock | untimed | ⟨m, gone⟩ | ⟨m, cancelled⟩
  · rw [clock]
    rfl
  · rw [countdownText, untimed]
    cases mode <;> cases r.state.live <;> rfl
  · rw [gone]
    cases mode <;> rfl
  · rw [cancelled]
    cases mode <;> rfl

theorem countdownText_timed (cfg : Settings) (n : Int) (r : Record) : countdownText cfg true n r =
    some (if r.effective - n ≤ 0 then [0x44, 0x75, 0x65]
      else if r.effective - n ≤ 99 then decimal (r.effective - n).toNat ++ [0x20, 0x6D]
      else civilText cfg.dayStart r.effective) := by
  simp only [countdownText, if_true]
  split
  · rfl
  · split <;> rfl

/-- In COUNTDOWN a live record's time field counts down to E (R68). -/
theorem timeField_countdown {s : State} {r : Record} (timed : s.table.timed = true) (live : r.state.live = true) :
    timeField s .countdown r = rightAligned 5
      (if r.effective - s.table.working ≤ 0 then [0x44, 0x75, 0x65]
        else if r.effective - s.table.working ≤ 99 then
          decimal (r.effective - s.table.working).toNat ++ [0x20, 0x6D]
        else civilText s.settings.dayStart r.effective) := by
  rw [timeField, live, timed, countdownText_timed]
  rfl

theorem timeField_length (s : State) (mode : TimeMode) (r : Record) : (timeField s mode r).length = 5 := by
  by_cases clock : mode = .clocktime ∨ s.table.timed = false ∨ (∃ m, r.state = .gone m) ∨ ∃ m, r.state = .cancelled m
  · rw [timeField_clock clock]
    rfl
  · obtain ⟨countdown, timed, gone, cancelled⟩ : mode = .countdown ∧ s.table.timed = true ∧
        (∀ m, r.state ≠ .gone m) ∧ ∀ m, r.state ≠ .cancelled m := by
      simp only [not_or, not_exists, Bool.not_eq_false] at clock
      refine ⟨?_, clock.2⟩
      cases mode with
      | clocktime => exact absurd rfl clock.1
      | countdown => rfl
    have live : r.state.live = true := by
      cases state : r.state with
      | gone m => exact absurd state (gone m)
      | cancelled m => exact absurd state (cancelled m)
      | _ => rfl
    rw [countdown, timeField_countdown timed live]
    refine rightAligned_length ?_
    split
    · exact (by decide : 3 ≤ 5)
    · split
      · next low =>
        by_cases one : (r.effective - s.table.working).toNat < 10
        · rw [decimal_digit one]
          exact (by decide : 3 ≤ 5)
        · rw [decimal_digits (by omega) (by omega)]
          exact (by decide : 4 ≤ 5)
      · exact Nat.le_refl 5

/-! ### The other fields (R109, R110) -/

theorem destinationField_length (t : TextStore) (n : Nat) (r : Record) : (destinationField t n r).length = n := by
  unfold destinationField
  dsimp only
  split <;> exact padTo_length n _

theorem padTo_fits {n : Nat} {bs : List Byte} (h : bs.length ≤ n) :
    padTo n bs = bs ++ List.replicate (n - bs.length) 0x20 := by
  rw [padTo, List.take_of_length_le h]

theorem destinationField_via {t : TextStore} {n : Nat} {r : Record} {dest via : List Byte}
    (dest_ : dest = t.shown r.destination) (via_ : via = (r.via.map t.shown).getD []) :
    (via ≠ [] → dest.length + 1 + via.length ≤ n → destinationField t n r =
      dest ++ [0x20] ++ via ++ List.replicate (n - (dest.length + 1 + via.length)) 0x20) ∧
    ((via = [] ∨ n < dest.length + 1 + via.length) →
      destinationField t n r = dest.take n ++ List.replicate (n - dest.length) 0x20) := by
  unfold destinationField
  dsimp only
  rw [← dest_, ← via_]
  refine ⟨fun some_ fits => ?_, fun alone => ?_⟩
  · have length : (dest ++ [0x20] ++ via).length = dest.length + 1 + via.length := by
      rw [List.length_append, List.length_append, List.length_singleton]
    rw [if_pos ⟨List.length_pos_iff.mpr some_, fits⟩, padTo_fits (length.le.trans fits), length]
  · refine if_neg fun ⟨some_, fits⟩ => ?_
    rcases alone with none_ | wide
    · exact absurd none_ (List.length_pos_iff.mp some_)
    · omega

theorem platformField_some {r : Record} {p : Nat} (h : r.platform = some p) :
    platformField r = rightAligned 2 (decimal p) := by
  rw [platformField, h]

theorem platformField_none {r : Record} (h : r.platform = none) : platformField r = [0x2D, 0x2D] := by
  rw [platformField, h]

theorem platformField_length {r : Record} (h : ∀ p, r.platform = some p → 1 ≤ p ∧ p ≤ 32) :
    (platformField r).length = 2 := by
  cases platform : r.platform with
  | none => rw [platformField_none platform]; rfl
  | some p =>
    have within := h p platform
    rw [platformField_some platform]
    refine rightAligned_length ?_
    by_cases one : p < 10
    · rw [decimal_digit one]
      exact (by decide : 1 ≤ 2)
    · rw [decimal_digits (by omega) (by omega)]
      exact Nat.le_refl 2

theorem showsExpected_iff (cfg : Settings) (r : Record) : showsExpected cfg r = true ↔ cfg.onTimeTolerance ≤ r.delay := by
  unfold showsExpected expectedText
  split
  · next late => exact ⟨fun _ => late, fun _ => rfl⟩
  · next onTime => exact ⟨nofun, fun late => absurd late onTime⟩

/-- The remark of a record that is on its way: PLATFORM CHANGED, EXPECTED, BOARDING or ON TIME (R110). -/
theorem shownRemark_live {cfg : Settings} {r : Record} (h : r.state = .waiting ∨ r.state = .called) :
    shownRemark cfg r = if r.previous.isSome then .platformChanged
      else if showsExpected cfg r then .expected
      else if r.state = .called then .boarding
      else .onTime := by
  rcases h with state | state <;> rw [shownRemark, state]

theorem shownRemark_expected {cfg : Settings} {r : Record} (h : r.state = .waiting ∨ r.state = .called)
    (same : r.previous = none) (late : cfg.onTimeTolerance ≤ r.delay) : shownRemark cfg r = .expected := by
  rw [shownRemark_live h, same]
  exact if_pos ((showsExpected_iff cfg r).mpr late)

theorem shownRemark_onTime {cfg : Settings} {r : Record} (h : r.state = .waiting ∨ r.state = .called)
    (same : r.previous = none) (onTime : r.delay < cfg.onTimeTolerance) :
    shownRemark cfg r = if r.state = .called then .boarding else .onTime := by
  rw [shownRemark_live h, same]
  exact if_neg fun late => absurd ((showsExpected_iff cfg r).mp late) (Int.not_le.mpr onTime)

theorem remarkField_of {s : State} {r : Record} {k : Remark} (h : shownRemark s.settings r = k) (other : k ≠ .expected) :
    remarkField s r = padTo 10 (s.store.shown (remarkText s.settings k)) := by
  simp only [remarkField, h, if_neg other]

theorem remarkField_expected {s : State} {r : Record} (h : shownRemark s.settings r = .expected) :
    remarkField s r = padTo 5 (s.store.shown s.settings.remarks.expected) ++
      civilText s.settings.dayStart r.effective := by
  simp only [remarkField, h]
  rfl

theorem remarkField_length (s : State) (r : Record) : (remarkField s r).length = 10 := by
  by_cases expected : shownRemark s.settings r = .expected
  · rw [remarkField_expected expected, List.length_append, padTo_length, civilText_length]
  · rw [remarkField_of rfl expected, padTo_length]

/-! ### The row of a record (R109, R111) -/

theorem getElem?_behind {α : Type} {front rest : List α} {x : α} {k : Nat} (h : front.length = k) :
    (front ++ x :: rest)[k]? = some x := by
  subst h
  simp

/-- Seven fields of 5, 1, n, 1, 2, 1 and 10 cells, each found in its place. -/
theorem fields_found {time dest platform remark : List Byte} {n : Nat} (five : time.length = 5) (rest : dest.length = n)
    (two : platform.length = 2) (ten : remark.length = 10) {cells : List Byte}
    (h : cells = time ++ [0x20] ++ dest ++ [0x20] ++ platform ++ [0x20] ++ remark) :
    cells.length = n + 20 ∧ cells[5]? = some 0x20 ∧ cells[n + 6]? = some 0x20 ∧ cells[n + 9]? = some 0x20 ∧
    cells.take 5 = time ∧ (cells.drop 6).take n = dest ∧ (cells.drop (n + 7)).take 2 = platform ∧
    cells.drop (n + 10) = remark := by
  subst h
  refine ⟨?_, ?_, ?_, ?_, ?_, ?_, ?_, ?_⟩
  · simp only [List.length_append, List.length_singleton, five, rest, two, ten]
    omega
  · simp only [List.append_assoc, List.singleton_append]
    exact getElem?_behind five
  · rw [List.append_assoc _ platform, List.append_assoc _ _ remark, List.append_assoc (_ ++ dest) [0x20]]
    refine getElem?_behind ?_
    simp only [List.length_append, List.length_singleton, five, rest]
    omega
  · rw [List.append_assoc _ [0x20] remark]
    refine getElem?_behind ?_
    simp only [List.length_append, List.length_singleton, five, rest, two]
    omega
  · simp only [List.append_assoc]
    exact List.take_left' five
  · simp only [List.append_assoc]
    rw [← List.append_assoc time, List.drop_left' (by simp [five]), List.take_left' rest]
  · rw [List.append_assoc _ [0x20] remark, List.append_assoc _ platform, List.drop_left', List.take_left' two]
    simp only [List.length_append, List.length_singleton, five, rest]
    omega
  · refine List.drop_left' ?_
    simp only [List.length_append, List.length_singleton, five, rest, two]
    omega

/-- FLASH in the platform cells alone: two cells behind n others, and 11 behind them. -/
theorem platformFlash_spec (n x : Nat) (within : x < n + 13) :
    (List.replicate n false ++ [true, true] ++ List.replicate 11 false)[x]? =
      some (decide (x = n ∨ x = n + 1)) := by
  have length : (List.replicate n false ++ [true]).length = n + 1 := by simp
  obtain before | rfl | rfl | behind : x < n ∨ x = n ∨ x = n + 1 ∨ n + 1 < x := by omega
  · rw [List.append_assoc, List.getElem?_append_left (by simpa using before), List.getElem?_replicate_of_lt before,
      decide_eq_false (by omega)]
  · rw [List.append_assoc, decide_eq_true (.inl rfl)]
    exact getElem?_behind List.length_replicate
  · rw [decide_eq_true (.inr rfl), List.append_cons, List.append_assoc]
    exact getElem?_behind length
  · rw [List.getElem?_append_right (by simp; omega), List.getElem?_replicate_of_lt (by simp; omega),
      decide_eq_false (by omega)]

/-- The attributes of a LIST row, cell by cell (R111). -/
theorem listFlash_spec {w : Nat} (wide : 24 ≤ w) (r : Record) : (listFlash w r).length = w ∧
    ∀ x, x < w → (listFlash w r)[x]? = some (decide (r.state = .closing ∨
      (r.previous.isSome = true ∧ (x = w - 13 ∨ x = w - 12)))) := by
  unfold listFlash
  split
  · next closing => exact ⟨List.length_replicate, fun x within => by simp [closing, within]⟩
  · next open_ =>
    split
    · next changed =>
      have behind : w - 13 + 1 = w - 12 := by omega
      refine ⟨by simp; omega, fun x within => (platformFlash_spec (w - 13) x (by omega)).trans ?_⟩
      simp [open_, changed, behind]
    · next same => exact ⟨List.length_replicate, fun x within => by simp [open_, same, within]⟩

/-! ### The row of a page-list entry (R108) -/

theorem ChainView.listRecord_eq_some_iff {v : ChainView} {t : Table} {i : Nat} {r : Record} :
    v.listRecord t i = some r ↔
      ∃ e, v.pages[v.listPosition i - 1]? = some e ∧ t.slots[e.1] = some r ∧ r.code = e.2 := by
  unfold ChainView.listRecord
  split
  · next none_ => exact ⟨nofun, fun ⟨e, entry, _⟩ => absurd (none_.symm.trans entry) nofun⟩
  · next slot code entry =>
    rw [Option.filter_eq_some_iff, beq_iff_eq]
    constructor
    · exact fun h => ⟨_, entry, h⟩
    · rintro ⟨e, entry', h⟩
      obtain rfl := Option.some.inj (entry.symm.trans entry')
      exact h

theorem listRow_some {s : State} {v : ChainView} {i : Nat} {r : Record} (h : v.listRecord s.table i = some r) :
    listRow s v i = listImage s v.plan r := by
  rw [listRow, h]

theorem listRow_none {s : State} {v : ChainView} {i : Nat} (h : ∀ r, v.listRecord s.table i ≠ some r) :
    listRow s v i = blankImage v.plan.width := by
  rw [listRow, Option.eq_none_iff_forall_ne_some.mpr h]

end Sys2Proof.Machine
end

section
open Sys2Proof Sys2Proof.Machine

/-- Settles O43: the seven fields stand in their places, and each is what its own cases give. -/
theorem listRowsFillTheirFields : Obligations.ListRowsFillTheirFields := by
  refine ⟨trimmed_spec, fun store x => ⟨(store.read x).map displayed, rfl, ?_, fun k b within b_ => ?_⟩,
    fun dayStart m h => civilText_digits, fun s plan r w width wide narrow platforms => ?_, fun s v i => ⟨fun away => ?_,
      fun e r entry slot code => listRow_some (ChainView.listRecord_eq_some_iff.mpr ⟨e, entry, slot, code⟩)⟩⟩
  · rw [List.length_map, store.read_length]
  · rw [store.read_displayed x within, b_]
    rfl
  · obtain ⟨n, rfl⟩ : ∃ n, w = n + 20 := ⟨w - 20, by omega⟩
    have image : listImage s plan r = ⟨timeField s plan.timeMode r ++ [0x20] ++ destinationField s.store n r ++ [0x20] ++
        platformField r ++ [0x20] ++ remarkField s r, listFlash (n + 20) r⟩ := by
      rw [listImage, width, Nat.add_sub_cancel]
    obtain ⟨flashes, flash⟩ := listFlash_spec wide r
    generalize cells_ : timeField s plan.timeMode r ++ [0x20] ++ destinationField s.store n r ++ [0x20] ++
      platformField r ++ [0x20] ++ remarkField s r = cells at image
    obtain ⟨length, gap, gap', gap'', time, dest, platform, remark⟩ := fields_found (timeField_length s plan.timeMode r)
      (destinationField_length s.store n r) (platformField_length platforms) (remarkField_length s r) cells_.symm
    have shows {k : Remark} (h : shownRemark s.settings r = k) (other : k ≠ .expected) :
        cells.drop (n + 10) = padTo 10 (s.store.shown (remarkText s.settings k)) :=
      remark.trans (remarkField_of h other)
    refine ⟨cells, _, image, length, flashes, gap, gap', gap'', fun clock => time.trans (timeField_clock clock),
      fun left countdown timed live left_ => ?_, fun destination via destination_ via_ => ?_, fun text cases_ => ?_,
      fun none_ => platform.trans (platformField_none none_), fun p some_ one => ?_, fun p some_ two => ?_,
      fun live same late => ?_, flash⟩
    · have counts : cells.take 5 = _ := time.trans (countdown ▸ timeField_countdown timed (by
        rcases live with state | state | state <;> rw [state] <;> rfl))
      rw [← left_] at counts
      refine ⟨fun due => ?_, fun later one => ?_, fun two short => ?_, fun long => ?_⟩
      · rw [counts, if_pos due]
        rfl
      · rw [counts, if_neg (by omega), if_pos (by omega), decimal_digit (by omega)]
        rfl
      · rw [counts, if_neg (by omega), if_pos short, decimal_digits (by omega) (by omega)]
        rfl
      · rw [counts, if_neg (by omega), if_neg (by omega)]
        rfl
    · obtain ⟨both, alone⟩ := destinationField_via (n := n) destination_ via_
      exact ⟨fun some_ fits => dest.trans (both some_ fits), fun h => dest.trans (alone h)⟩
    · obtain ⟨⟨m, cancelled⟩, rfl⟩ | ⟨⟨m, gone⟩, rfl⟩ | ⟨closing, rfl⟩ | ⟨live, changed, rfl⟩ | ⟨called, same, onTime, rfl⟩ |
        ⟨waiting, same, onTime, rfl⟩ := cases_
      · exact shows (k := .cancelled) (by rw [shownRemark, cancelled]) nofun
      · exact shows (k := .departed) (by rw [shownRemark, gone]) nofun
      · exact shows (k := .closing) (by rw [shownRemark, closing]) nofun
      · exact shows (k := .platformChanged)
          ((shownRemark_live live).trans (if_pos (Option.isSome_iff_ne_none.mpr changed))) nofun
      · exact shows (k := .boarding) ((shownRemark_onTime (.inr called) same onTime).trans (if_pos called)) nofun
      · exact shows (k := .onTime)
          ((shownRemark_onTime (.inl waiting) same onTime).trans (if_neg (by rw [waiting]; nofun))) nofun
    · refine platform.trans ((platformField_some some_).trans ?_)
      rw [decimal_digit one]
      rfl
    · have within := platforms p some_
      refine platform.trans ((platformField_some some_).trans ?_)
      rw [decimal_digits two (by omega)]
      rfl
    · exact remark.trans (remarkField_expected (shownRemark_expected live same late))
  · refine listRow_none fun r shows => ?_
    obtain ⟨e, entry, slot, code⟩ := ChainView.listRecord_eq_some_iff.mp shows
    exact away e entry r slot code

end
